-- ==== Sys2Proof/Word.lean ====
section
/-! DEFINITION. The widths of the block: bytes, 16-bit counts, 7-bit device addresses and 3-bit operation codes
(spec 00_scope.md R7, R8; 30_encoding.md R63). Bit 7 of a byte is its most significant bit. -/

namespace Sys2Proof

/-- A byte: 8 bits, bit 7 the most significant (R7). -/
abbrev Byte := BitVec 8

/-- A count before it is read as signed: 16 bits, bit 15 the most significant (R7, R100). -/
abbrev Count16 := BitVec 16

/-- A device address on the bus: 7 bits (R6 `I2C_ADDR_BITS`, R48). -/
abbrev DeviceAddress := BitVec 7

/-- An operation code: 3 bits (R63, R66). -/
abbrev OpCode := BitVec 3

end Sys2Proof
end

