-- ==== Sys2Proof/Syntax.lean ====
section
/-! DEFINITION. What a caller can ask for: the operations as a closed type, one constructor for each row of the opcode
table, and the request record `(op, args)` that reaches the operation port (30_encoding.md R63 to R66, R71). -/

namespace Sys2Proof

/-- One constructor per row of spec/opcode_table.json (R66). The operands are those of R64, a frame or a command being
of any finite length. -/
inductive Instr where
  /-- `CRC.COMPUTE frame`, code `000` (R83). -/
  | crcCompute (frame : List Byte)
  /-- `CRC.VALIDATE frame, expected_crc`, code `001` (R84). -/
  | crcValidate (frame : List Byte) (expectedCrc : Byte)
  /-- `ASM.DECODE d0, d1, d2, d3`, code `010` (R103). -/
  | asmDecode (d0 d1 d2 d3 : Byte)
  /-- `RP.WRITE_COMMAND bytes`, code `011` (R110). -/
  | rpWriteCommand (bytes : List Byte)
  /-- `RP.READ_FRAME`, code `100` (R113). -/
  | rpReadFrame
  /-- `RP.READ_RAW`, code `101` (R116). -/
  | rpReadRaw
  /-- The reserved code `110` (R69). -/
  | reserved110
  /-- The reserved code `111` (R69). -/
  | reserved111
  deriving DecidableEq, Repr

/-- The mnemonic of R66, as the opcode table spells it. -/
def Instr.mnemonic : Instr → String
  | .crcCompute _ => "CRC.COMPUTE"
  | .crcValidate _ _ => "CRC.VALIDATE"
  | .asmDecode _ _ _ _ => "ASM.DECODE"
  | .rpWriteCommand _ => "RP.WRITE_COMMAND"
  | .rpReadFrame => "RP.READ_FRAME"
  | .rpReadRaw => "RP.READ_RAW"
  | .reserved110 => "RESERVED.110"
  | .reserved111 => "RESERVED.111"

/-- One operand of a request: a byte, or a byte sequence (R64). -/
inductive Operand where
  | byte (b : Byte)
  | seq (bs : List Byte)
  deriving DecidableEq, Repr

/-- A request as the operation port sees it: an operation code and operands, not yet known to be well formed (R63). -/
structure Request where
  op : OpCode
  args : List Operand
  deriving DecidableEq, Repr

/-- What an operand may be: one byte, or a byte sequence (R64). -/
inductive OperandShape where
  | byte
  | seq
  deriving DecidableEq, Repr

/-- The shape of an operand. -/
def Operand.shape : Operand → OperandShape
  | .byte _ => .byte
  | .seq _ => .seq

end Sys2Proof
end

