-- ==== Sys2Proof/WellFormed.lean ====
section
/-! DEFINITION. Which requests are well formed (30_encoding.md R67): the code is one of the six of R66, and the
operands are exactly those R64 lists for it. -/

namespace Sys2Proof

/-- The operands R64 lists for each code. A reserved code has none. -/
def operandShapes (op : OpCode) : List OperandShape :=
  match op with
  | 0b000#3 => [.seq]
  | 0b001#3 => [.seq, .byte]
  | 0b010#3 => [.byte, .byte, .byte, .byte]
  | 0b011#3 => [.seq]
  | _ => []

/-- The codes `110` and `111` are reserved (R69). -/
def reservedCode (op : OpCode) : Bool :=
  op == 0b110#3 || op == 0b111#3

/-- A request's operands are exactly those its code takes (R67). -/
def Request.operandsMatch (r : Request) : Bool :=
  r.args.map Operand.shape == operandShapes r.op

/-- A well-formed request (R67). -/
def Request.wellFormed (r : Request) : Bool :=
  !reservedCode r.op && r.operandsMatch

/-- A well-formed operation: one of the six. The types of the operands leave nothing else to check (R67). -/
def Instr.wellFormed : Instr → Bool
  | .crcCompute _ => true
  | .crcValidate _ _ => true
  | .asmDecode _ _ _ _ => true
  | .rpWriteCommand _ => true
  | .rpReadFrame => true
  | .rpReadRaw => true
  | .reserved110 => false
  | .reserved111 => false

/-- The operation has a flat form: its byte sequence, if it has one, is counted by one length byte (R63). A longer
sequence is a well-formed operand all the same (R64) and reaches the port in the record form. -/
def Instr.fitsFlat : Instr → Bool
  | .crcCompute frame => frame.length < 256
  | .crcValidate frame _ => frame.length < 256
  | .asmDecode _ _ _ _ => true
  | .rpWriteCommand bytes => bytes.length < 256
  | .rpReadFrame => true
  | .rpReadRaw => true
  | .reserved110 => true
  | .reserved111 => true

end Sys2Proof
end

