-- ==== Sys2Proof/Decode.lean ====
section
/-! DEFINITION. Reading a request: from the record the operation port receives, and from the flat form in bytes
(30_encoding.md R63). Both are total and reject by name. After them the encoders, written from the same table. -/

namespace Sys2Proof

/-- Why a request cannot be read as an operation. All of them are `Refused` at the port (R69), which is safe. -/
inductive DecodeError where
  /-- The operands are not those R64 lists for the code (R67). -/
  | operandsMismatch
  /-- The flat form ends before its operands do (R63). -/
  | truncated
  deriving DecidableEq, Repr

/-- The operation a request record stands for (R63, R64, R66). A reserved code is an operation of the table, which the
port refuses; given operands it is ill formed as well, and is refused as that (log entry 14). -/
def decodeRequest (r : Request) : Except DecodeError Instr :=
  if r.op = 0b000#3 then
    match r.args with
    | [.seq frame] => .ok (.crcCompute frame)
    | _ => .error .operandsMismatch
  else if r.op = 0b001#3 then
    match r.args with
    | [.seq frame, .byte expected] => .ok (.crcValidate frame expected)
    | _ => .error .operandsMismatch
  else if r.op = 0b010#3 then
    match r.args with
    | [.byte d0, .byte d1, .byte d2, .byte d3] => .ok (.asmDecode d0 d1 d2 d3)
    | _ => .error .operandsMismatch
  else if r.op = 0b011#3 then
    match r.args with
    | [.seq bytes] => .ok (.rpWriteCommand bytes)
    | _ => .error .operandsMismatch
  else
    match r.args with
    | [] =>
      if r.op = 0b100#3 then .ok .rpReadFrame
      else if r.op = 0b101#3 then .ok .rpReadRaw
      else if r.op = 0b110#3 then .ok .reserved110
      else .ok .reserved111
    | _ => .error .operandsMismatch

/-- Reads one operand of a given shape off the front of a byte list; a byte sequence is preceded by its length byte
(R63). -/
def parseOperand (shape : OperandShape) (bytes : List Byte) : Except DecodeError (Operand × List Byte) :=
  match shape, bytes with
  | .byte, b :: rest => .ok (.byte b, rest)
  | .seq, n :: rest =>
    if n.toNat ≤ rest.length then .ok (.seq (rest.take n.toNat), rest.drop n.toNat)
    else .error .truncated
  | _, [] => .error .truncated

/-- Reads operands of the given shapes, in order. -/
def parseOperands : List OperandShape → List Byte → Except DecodeError (List Operand × List Byte)
  | [], bytes => .ok ([], bytes)
  | shape :: shapes, bytes =>
    match parseOperand shape bytes with
    | .error e => .error e
    | .ok (x, rest) =>
      match parseOperands shapes rest with
      | .error e => .error e
      | .ok (xs, rest') => .ok (x :: xs, rest')

/-- The code in the first byte of a flat request: its bits 2:0. Bits 7:3 belong to no field (log entry 13). -/
def flatCode (first : Byte) : OpCode := first.extractLsb' 0 3

/-- Reads a flat request off the front of a byte list: the code, then the operands of that code (R63). -/
def parseFlat : List Byte → Except DecodeError (Request × List Byte)
  | [] => .error .truncated
  | first :: rest =>
    match parseOperands (operandShapes (flatCode first)) rest with
    | .error e => .error e
    | .ok (args, rest') => .ok ({ op := flatCode first, args := args }, rest')

/-- Decodes a flat request: the operation and the bytes after it, which are none of its operands (log entry 22). -/
def decode (bytes : List Byte) : Except DecodeError (Instr × List Byte) :=
  match parseFlat bytes with
  | .error e => .error e
  | .ok (r, rest) =>
    match decodeRequest r with
    | .error e => .error e
    | .ok i => .ok (i, rest)

/-- The code R66 gives each operation. -/
def Instr.code : Instr → OpCode
  | .crcCompute _ => 0b000#3
  | .crcValidate _ _ => 0b001#3
  | .asmDecode _ _ _ _ => 0b010#3
  | .rpWriteCommand _ => 0b011#3
  | .rpReadFrame => 0b100#3
  | .rpReadRaw => 0b101#3
  | .reserved110 => 0b110#3
  | .reserved111 => 0b111#3

/-- The operands of an operation in the order of R64. -/
def Instr.operands : Instr → List Operand
  | .crcCompute frame => [.seq frame]
  | .crcValidate frame expected => [.seq frame, .byte expected]
  | .asmDecode d0 d1 d2 d3 => [.byte d0, .byte d1, .byte d2, .byte d3]
  | .rpWriteCommand bytes => [.seq bytes]
  | .rpReadFrame => []
  | .rpReadRaw => []
  | .reserved110 => []
  | .reserved111 => []

/-- The request record of an operation (R63). -/
def encodeRequest (i : Instr) : Request := { op := i.code, args := i.operands }

/-- The flat bytes of one operand: a sequence is preceded by one length byte (R63). -/
def encodeOperand : Operand → List Byte
  | .byte b => [b]
  | .seq bs => BitVec.ofNat 8 bs.length :: bs

/-- The flat form of an operation (R63): the code in bits 2:0 of the first byte, then the operand bytes. -/
def encode (i : Instr) : List Byte :=
  i.code.zeroExtend 8 :: i.operands.flatMap encodeOperand

/-- Byte `k` of a number whose bits from `nbits` on are taken as 0. -/
def wordByte (nbits w k : Nat) : Byte := BitVec.ofNat 8 ((w % 2 ^ nbits) >>> (8 * k))

/-- The bytes of a request given as one number whose bits are numbered as the opcode table numbers them: the first
byte is bits 7:0, the second bits 15:8, and so on; every bit from `nbits` on is 0. The zero bytes after the number's own
are enough for the longest request that begins so: four operand bytes, or as many as the length byte counts and a check
byte (log entry 14). -/
def tableBytes (nbits w : Nat) : List Byte :=
  (List.range ((nbits + 7) / 8)).map (wordByte nbits w) ++ List.replicate (5 + (wordByte nbits w 1).toNat) 0

/-- The operation read from a table word. Bytes left over after its operands are dropped (log entry 22). -/
def decodeTableWord (nbits w : Nat) : Option Instr :=
  match decode (tableBytes nbits w) with
  | .ok (i, _) => some i
  | .error _ => none

/-- The request record of a table word, to be presented at the operation port. Bytes left over after its operands are
dropped (log entry 22); a word that cannot be read is its code without operands (log entry 14). -/
def tableRequest (nbits w : Nat) : Request :=
  match parseFlat (tableBytes nbits w) with
  | .ok (r, _) => r
  | .error _ => { op := BitVec.ofNat 3 (w % 2 ^ nbits), args := [] }

end Sys2Proof
end

