-- ==== Sys2Proof/Config.lean ====
section
/-! DEFINITION. The parameters the spec leaves OPEN (00_scope.md R6, 92_eei_decisions.md D9, D10): constants without
a body, so that no proof can rest on a value of them. The parameters with a stated value are in
Machine/Parameters.lean. -/

namespace Sys2Proof.Config

/-- The parameters of the checksum (00_scope.md R6): generator polynomial without its x^8 term, initial value, final
exclusive-or, and whether bit 7 of a byte enters first. -/
structure CrcParams where
  poly : Byte
  init : Byte
  xorOut : Byte
  msbFirst : Bool
  deriving DecidableEq, Repr

/-- The free choice behind `crcPoly`: any of the 255 non-zero bytes, counted from 0 (log entry 1). -/
opaque crcPolyIndex : Fin 255

/-- The non-zero byte of an index. -/
def polyOfIndex (i : Fin 255) : Byte := BitVec.ofNat 8 (i.val + 1)

/-- `CRC_POLY`: 8 bits, not `0x00`, otherwise OPEN (R6, R89). Every non-zero byte is one value of it. -/
def crcPoly : Byte := polyOfIndex crcPolyIndex

/-- The first byte of `CMD_SELECT`, OPEN (log entry 2). -/
opaque cmdSelectHead : Byte

/-- The bytes of `CMD_SELECT` after the first, OPEN (log entry 2). -/
opaque cmdSelectTail : List Byte

/-- `CMD_SELECT`: a byte sequence of length at least 1, otherwise OPEN (R6, R68). -/
def cmdSelect : List Byte := cmdSelectHead :: cmdSelectTail

end Sys2Proof.Config
end

