-- ==== Sys2Proof/Machine/Parameters.lean ====
section
/-! DEFINITION. The parameters of 00_scope.md R6 that have a value. The spec calls the literals unaudited
(93_implementation_defined.md U2, U9, U14), so each is a named definition and stands in one place. -/

namespace Sys2Proof.Config

/-- `CRC_INIT` (R6; 90_conflicts.md C1; log entry 3). -/
def crcInit : Byte := 0x00

/-- `CRC_XOROUT`: no final exclusive-or (R6; log entry 3). -/
def crcXorOut : Byte := 0x00

/-- `CRC_MSB_FIRST`: bit 7 of each byte enters first (R6; 92_eei_decisions.md D2; log entry 4). -/
def crcMsbFirst : Bool := true

/-- The checksum of this block. -/
def crc : CrcParams := { poly := crcPoly, init := crcInit, xorOut := crcXorOut, msbFirst := crcMsbFirst }

/-- `DATA_BYTES` (R6). -/
def dataBytes : Nat := 4

/-- `CRC_BYTES` (R6). -/
def crcBytes : Nat := 1

/-- `I2C_ADDR_DEFAULT` (R6, R45; log entry 3). -/
def i2cAddrDefault : DeviceAddress := 0x6C

/-- `EN_CRC_DEFAULT` (R6). -/
def enCrcDefault : Bool := false

end Sys2Proof.Config
end

