-- ==== Sys2Proof/Machine/State.lean ====
section
/-! DEFINITION. The state of the block (10_state.md R20 to R34), its two ports, and the reasons a step can stop. -/

namespace Sys2Proof.Machine

/-- The pressure range of SensorConfig (R24, R73). No operation reads it. -/
inductive PressureRange where
  | r0505
  | r0025
  | r5050
  deriving DecidableEq, Repr

/-- `CFG`, the configuration register: a record without bit positions (R24). -/
structure Cfg where
  /-- `CFG.crc_en`. -/
  crcEn : Bool
  /-- `CFG.i2c_address`. -/
  i2cAddress : DeviceAddress
  /-- `CFG.pressure_range`, stored and never read. -/
  pressureRange : PressureRange
  /-- `CFG.offset`, stored and never read; the spec gives it no width (log entry 20). -/
  offset : Int
  deriving DecidableEq, Repr

/-- `ST` (R26). -/
inductive TransactionState where
  | idle
  | transacting
  deriving DecidableEq, Repr

/-- The phases of a running `RP.READ_RAW` (R27). The codes 4 to 7 are reserved, never taken, and have no constructor
(log entry 6). -/
inductive Phase where
  | write
  | read
  | check
  | decode
  deriving DecidableEq, Repr

/-- The frame buffer as a memory: cells with their addresses, addresses strictly rising. An address that is not listed
holds no value (R22, R40; log entry 16). -/
abbrev Memory := List Host.Cell

/-- A call on the transport port (00_scope.md R8). -/
inductive BusCall where
  /-- `BusWrite(a, bs)`. -/
  | write (address : DeviceAddress) (bytes : List Byte)
  /-- `BusRead(a, n)`. -/
  | read (address : DeviceAddress) (count : Nat)
  deriving DecidableEq, Repr

/-- The operations that enter Transacting (R26): what the block is in the middle of (log entry 9). The operands of
`RP.WRITE_COMMAND` are in its outstanding call. -/
inductive BusOperation where
  | writeCommand
  | readFrame
  | readRaw
  deriving DecidableEq, Repr

/-- An answer of the Bus Transport (20_memory.md R46). `ok` carries the bytes of a read; the `Ok` of a write carries
none. -/
inductive Answer where
  | ok (bytes : List Byte)
  | busError
  deriving DecidableEq, Repr

/-- A transport event (R51): `W(a, bs, answer)` or `R(a, n, answer)`. -/
inductive BusEvent where
  | write (address : DeviceAddress) (bytes : List Byte) (answer : Answer)
  | read (address : DeviceAddress) (count : Nat) (answer : Answer)
  deriving DecidableEq, Repr

/-- The errors (60_exceptions.md R130). -/
inductive OpError where
  | busError
  | shortRead
  | dataIntegrity
  | configuration
  deriving DecidableEq, Repr

/-- RawReading: two signed counts (00_scope.md R11, 41_assembler.md R102). -/
structure RawReading where
  pressureCount : Int
  temperatureCount : Int
  deriving DecidableEq, Repr

/-- The value of an `Ok` result (30_encoding.md R65). -/
inductive OpValue where
  | byte (b : Byte)
  | bool (b : Bool)
  | reading (r : RawReading)
  | unit
  | frame (bytes : List Byte)
  deriving DecidableEq, Repr

/-- The result of an operation the port has taken (00_scope.md R9). `Refused` is not one of them: it is
`Host.Outcome.refused`. -/
inductive OpResult where
  | ok (v : OpValue)
  | err (e : OpError)
  deriving DecidableEq, Repr

/-- The machine. The first six fields are the elements of R20; the rest are the two ports (R12) and the record of what
passed through them (R51, R28). `none` in a transient register is the spec's own state "holds no value" (R33). -/
structure State where
  /-- `CFG` (R24). -/
  cfg : Cfg
  /-- `ST` (R26). -/
  st : TransactionState
  /-- `PH` (R27). -/
  ph : Option Phase
  /-- `CRC` (R21). -/
  crc : Option Byte
  /-- `BUF[0..4]` (R22). -/
  buf : Memory
  /-- `CNT` (R23). -/
  cnt : Option (BitVec 3)
  /-- The operation the port has taken and that has not ended, while `ST = Transacting` (R26; log entry 9). -/
  inProgress : Option BusOperation
  /-- The call issued on the transport port and not yet answered (R122; log entry 9). -/
  call : Option BusCall
  /-- The caller's requests not yet taken, the next one first (R165; log entry 12). -/
  requests : List Request
  /-- The transport's answers not yet drawn, the next one first (R46; log entry 8). -/
  answers : List Answer
  /-- The event history, oldest first (R51; log entry 10). -/
  history : List BusEvent
  /-- The results delivered at the operation port, oldest first (R28; log entry 11). -/
  results : List OpResult
  deriving DecidableEq, Repr

/-- The transient registers of R33, by name. -/
inductive Transient where
  | ph
  | crc
  | buf (index : Nat)
  | cnt
  deriving DecidableEq, Repr

/-- Why a step can stop with a fault. No run of the block meets one; each is safe. -/
inductive Fault where
  /-- A read of a transient register that holds no value (R33: any read of it is "a fault of the model"). Raised by the
  reads in Machine/Ops.lean. Safe. -/
  | noValue (register : Transient)
  /-- An access to a frame-buffer cell that does not exist: an index above 4 (R40). Raised by the buffer operations in
  Machine/Ops.lean. Safe. -/
  | noSuchCell (index : Nat)
  /-- `ST = Transacting` with no operation in progress, or with `RP.WRITE_COMMAND` in progress and no write outstanding,
  which R26 and R110 never bring about (log entry 17). Raised by the resumption in Machine/RegisterProtocol.lean.
  Safe. -/
  | noOperationInProgress
  deriving DecidableEq, Repr

/-- Why a step is refused: the spec's `Refused`, the absence of a step (R9). Each is safe ("errs toward
unprovable"). -/
inductive Refusal where
  /-- Raised by a dispatch arm whose instruction has no meaning yet. No arm raises it. Safe. -/
  | notModelled (mnemonic : String)
  /-- A request with a reserved operation code (R69). Raised by the meanings of the two reserved codes. Safe. -/
  | reservedCode
  /-- An ill-formed request (R67, R69). Raised by the operation port. Safe. -/
  | illFormedRequest
  /-- A request while `ST = Transacting` (R29). Raised by the admission of every operation. Safe. -/
  | transacting
  /-- A transport answer the port cannot carry: more bytes than the call asked for (R47). Raised where an answer is
  drawn. Safe. -/
  | inadmissibleAnswer
  deriving DecidableEq, Repr

/-- The block right after reset with the default construction parameters (R33, R150): `CFG` at its defaults, Idle, the
transient registers without a value, no bus access (R153). -/
def State.reset : State :=
  { cfg :=
      { crcEn := Config.enCrcDefault
        i2cAddress := Config.i2cAddrDefault
        pressureRange := .r5050
        offset := 0 }
    st := .idle
    ph := none
    crc := none
    buf := []
    cnt := none
    inProgress := none
    call := none
    requests := []
    answers := []
    history := []
    results := [] }

end Sys2Proof.Machine
end

