-- ==== Sys2Proof/Machine/Ops.lean ====
section
/-! DEFINITION. The shared operations of the block: admission at the operation port, the frame buffer, the transient
registers, the transport port, delivery of a result, and the entry of an error. -/

namespace Sys2Proof.Machine

/-- What an operation does: a next state, a fault of the model, or a refusal. -/
abbrev Result := Host.Outcome State Fault Refusal

/-! ### The frame buffer (R22, R40) -/

/-- The number of cells of the frame buffer. -/
def bufCells : Nat := 5

/-- The byte a cell holds, or `none` where it holds no value. -/
def Memory.read : Memory → Nat → Option Byte
  | [], _ => none
  | (a, b) :: m, i => if i = a then some b else Memory.read m i

/-- Writes one cell, keeping the addresses strictly rising. -/
def Memory.write : Memory → Nat → Byte → Memory
  | [], i, v => [(i, v)]
  | (a, b) :: m, i, v =>
    if i < a then (i, v) :: (a, b) :: m
    else if i = a then (i, v) :: m
    else (a, b) :: Memory.write m i v

/-- Writes consecutive cells from an index on. -/
def Memory.writeAll : Memory → Nat → List Byte → Memory
  | m, _, [] => m
  | m, i, b :: bs => Memory.writeAll (m.write i b) (i + 1) bs

/-- Every address of a memory is at least `lo`, below `bufCells`, and above the one before it. -/
def Memory.risingFrom : Nat → Memory → Bool
  | _, [] => true
  | lo, (a, _) :: m => lo ≤ a && a < bufCells && Memory.risingFrom (a + 1) m

/-- The canonical form: addresses strictly rising, all of them cells of the buffer. An unlisted cell holds no value, so
no entry can equal what an unlisted cell reads as. -/
def Memory.wf (m : Memory) : Bool := Memory.risingFrom 0 m

/-- Reads `BUF[i]`; a cell without a value and a cell that does not exist are faults (R33, R40). -/
def readBuf (i : Nat) (k : Byte → Result) (s : State) : Result :=
  if i < bufCells then
    match Memory.read s.buf i with
    | some b => k b
    | none => .fault (.noValue (.buf i))
  else .fault (.noSuchCell i)

/-- Reads the cells of the given indices, in order. -/
def readBufs (is : List Nat) (k : List Byte → Result) (s : State) : Result :=
  match is with
  | [] => k []
  | i :: is => readBuf i (fun b => readBufs is (fun bs => k (b :: bs)) s) s

/-- `CNT` and `BUF` with the bytes of an answer in them: `CNT` is their number, `BUF[i]` byte `i`. Cells with index
`CNT` or greater hold no value (R22), so the buffer is filled from one without values. -/
def State.filled (bs : List Byte) (s : State) : State :=
  { s with cnt := some (BitVec.ofNat 3 bs.length), buf := Memory.writeAll [] 0 bs }

/-- `CNT <- len(bs)`, `BUF[i] <- bs[i]` for `i < CNT` (R113, R116). -/
def fillBuf (bs : List Byte) (k : State → Result) (s : State) : Result :=
  if bs.length ≤ bufCells then k (s.filled bs) else .fault (.noSuchCell (bs.length - 1))

/-! ### The transient registers (R21, R23, R33) -/

/-- Reads `PH`: a fault where it holds no value (R27, R33). -/
def readPh (k : Phase → Result) (s : State) : Result :=
  match s.ph with
  | some p => k p
  | none => .fault (.noValue .ph)

/-- Reads `CRC`. -/
def readCrc (k : Byte → Result) (s : State) : Result :=
  match s.crc with
  | some c => k c
  | none => .fault (.noValue .crc)

/-- Reads `CNT`. -/
def readCnt (k : BitVec 3 → Result) (s : State) : Result :=
  match s.cnt with
  | some n => k n
  | none => .fault (.noValue .cnt)

/-- The transient registers lose their values (R139 (c); R21, R22, R27 "Between operations it holds no value"). -/
def State.dropTransients (s : State) : State :=
  { s with ph := none, crc := none, buf := [], cnt := none }

/-! ### The operation port (R29, R28, R26) -/

/-- The operation port takes a request only while `ST = Idle` (R29). -/
def whenIdle (k : State → Result) (s : State) : Result :=
  match s.st with
  | .idle => k s
  | .transacting => .refused .transacting

/-- `ST <- Transacting` when a bus operation is taken (R26), which is then the one in progress. -/
def State.begin (op : BusOperation) (s : State) : State := { s with st := .transacting, inProgress := some op }

/-- `PH <- p` (R27). -/
def State.setPh (p : Phase) (s : State) : State := { s with ph := some p }

/-- Delivers a result at the operation port (R28, R166). -/
def State.deliver (r : OpResult) (s : State) : State := { s with results := s.results ++ [r] }

/-- Ends a bus operation with a result: `ST <- Idle`, nothing in progress, no call outstanding, transient registers
without a value, the result delivered (R26, R139, R166). -/
def finish (r : OpResult) (s : State) : Result :=
  .next { s.dropTransients with st := .idle, inProgress := none, call := none, results := s.results ++ [r] }

/-- `raise E`, the entry of an error (R139): `ST <- Idle`, the transient registers lose their values, the result
`Err(E)` is delivered on the path of an `Ok`. Nothing is saved, and `CFG` is unchanged. There is no return from it
(R140): the block is at Idle and takes the next request. -/
def raise (e : OpError) (s : State) : Result := finish (.err e) s

/-! ### The transport port (R46, R47, R49, R51, R122) -/

/-- The most bytes an `Ok` answer to a call carries: none for a write, the count for a read (R46, R47). -/
def BusCall.limit : BusCall → Nat
  | .write _ _ => 0
  | .read _ n => n

/-- The answers the transport port can carry back to a call (R47). -/
def BusCall.admits (c : BusCall) : Answer → Bool
  | .ok bs => bs.length ≤ c.limit
  | .busError => true

/-- The event a call and its answer make (R51). -/
def BusCall.event : BusCall → Answer → BusEvent
  | .write a bs, ans => .write a bs ans
  | .read a n, ans => .read a n ans

/-- The state in which an answered call's operation goes on: the answer drawn, the event recorded, no call
outstanding. -/
def State.answered (c : BusCall) (a : Answer) (rest : List Answer) (s : State) : State :=
  { s with call := none, answers := rest, history := s.history ++ [c.event a] }

/-- Issues a call and waits for its answer without bound (R122): with no answer at hand the call stays outstanding and
`ST` stays Transacting (R161); an answer the port cannot carry is refused (R47); any other goes to the rest of the
operation. -/
def await (c : BusCall) (k : Answer → State → Result) (s : State) : Result :=
  match s.answers with
  | [] => .next { s with call := some c }
  | a :: rest => if c.admits a then k a (s.answered c a rest) else .refused .inadmissibleAnswer

/-! ### What the caller and the environment may do between steps (R166) -/

/-- The caller has more requests to present, after those it has already. -/
def State.submit (rs : List Request) (s : State) : State := { s with requests := s.requests ++ rs }

/-- The caller gives up the request at the front, as after a refusal (R69, 95_test_vectors.md P5). -/
def State.withdraw (s : State) : State := { s with requests := s.requests.tail }

/-- The transport has more answers to give, after those it has already. -/
def State.supply (as : List Answer) (s : State) : State := { s with answers := s.answers ++ as }

/-- The block is at rest: Idle, and the caller has no request outstanding (R165). -/
def State.atRest (s : State) : Bool := s.st == .idle && s.requests.isEmpty

end Sys2Proof.Machine
end

