-- ==== Sys2Proof/Machine/Operands.lean ====
section
/-! DEFINITION. How the bytes of a frame become counts, and how long a frame is (30_encoding.md R60 to R65;
41_assembler.md R100 to R104; 42_register_protocol.md R112). -/

namespace Sys2Proof.Machine

/-- `be16(hi, lo)`: bits 15:8 are `hi`, bits 7:0 are `lo` (R100). -/
def be16 (hi lo : Byte) : Count16 := (hi.setWidth 16 <<< 8) ||| lo.setWidth 16

/-- `s16(v)`: the two's complement reading (R101; log entry 19). -/
def s16 (v : Count16) : Int :=
  if v[15] then (v.toNat : Int) - 65536 else (v.toNat : Int)

/-- The decode of the four data bytes of a frame: bytes 0-1 pressure, bytes 2-3 temperature (R41, R60, R103). -/
def decodeReading (d0 d1 d2 d3 : Byte) : RawReading :=
  { pressureCount := s16 (be16 d0 d1), temperatureCount := s16 (be16 d2 d3) }

/-- The 16 bits of a count (R104): `n` if `n >= 0`, else `n + 65536`. -/
def countBits (n : Int) : Count16 := BitVec.ofInt 16 n

/-- The inverse of the decode (R104): the frame bytes of a pair of counts. -/
def encodeReading (r : RawReading) : List Byte :=
  [(countBits r.pressureCount).extractLsb' 8 8, (countBits r.pressureCount).extractLsb' 0 8,
   (countBits r.temperatureCount).extractLsb' 8 8, (countBits r.temperatureCount).extractLsb' 0 8]

/-- `FRAME_BYTES(crc_en)`: 4, or 5 when CRC is enabled (R6, R62, R112). -/
def frameBytes (crcEn : Bool) : Nat :=
  if crcEn then Config.dataBytes + Config.crcBytes else Config.dataBytes

/-- The call of `RP.READ_FRAME` and of the read phase of `RP.READ_RAW` (R113, R116). -/
def Cfg.readCall (cfg : Cfg) : BusCall := .read cfg.i2cAddress (frameBytes cfg.crcEn)

/-- The call of the write phase of `RP.READ_RAW` (R116). -/
def Cfg.selectCall (cfg : Cfg) : BusCall := .write cfg.i2cAddress Config.cmdSelect

/-- The four data bytes of a frame, by index. -/
def dataIndices : List Nat := List.range Config.dataBytes

/-- The index of the check byte (R61). -/
def checkIndex : Nat := Config.dataBytes

end Sys2Proof.Machine
end

