-- ==== Sys2Proof/Machine/Flags.lean ====
section
/-! DEFINITION. The block has no flag register (10_state.md R30). What takes the place of flags are the two comparisons
an operation makes and forgets, and the numbers the spec gives errors and states. -/

namespace Sys2Proof.Machine

/-- The equality of two checksums: the value of `CRC.VALIDATE` and the integrity test of `RP.READ_RAW` (R84, R117). -/
def checksumsAgree (computed expected : Byte) : Bool := computed == expected

/-- The short-read test `CNT < N` (R114). -/
def isShort (cnt : BitVec 3) (n : Nat) : Bool := cnt.toNat < n

/-- The numeric code of an error (R130). -/
def OpError.code : OpError → Nat
  | .busError => 1
  | .shortRead => 2
  | .dataIntegrity => 3
  | .configuration => 4

/-- The numeric code of a result: 0 for `Ok` (R130). -/
def OpResult.code : OpResult → Nat
  | .ok _ => 0
  | .err e => e.code

/-- The bit that encodes `ST` (R26). -/
def TransactionState.code : TransactionState → BitVec 1
  | .idle => 0
  | .transacting => 1

/-- The 3 bits that encode `PH` (R27). -/
def Phase.code : Phase → BitVec 3
  | .write => 0
  | .read => 1
  | .check => 2
  | .decode => 3

end Sys2Proof.Machine
end

