-- ==== Sys2Proof/Machine/Assembler.lean ====
section
/-! DEFINITION. The register-read assembler (41_assembler.md): the meaning of `ASM.DECODE`. -/

namespace Sys2Proof.Machine

/-- `ASM.DECODE d0, d1, d2, d3` (R103): pure and total; no state is read or written, and the reading is delivered. -/
def execAsmDecode (d0 d1 d2 d3 : Byte) (s : State) : Result :=
  whenIdle (fun s => .next (s.deliver (.ok (.reading (decodeReading d0 d1 d2 d3))))) s

end Sys2Proof.Machine
end

