-- ==== Sys2Proof/Machine/Crc.lean ====
section
/-! DEFINITION. The CRC family (40_crc.md): the arithmetic of the checksum for any parameters, the register loop, and
the meanings of `CRC.COMPUTE` and `CRC.VALIDATE`. -/

namespace Sys2Proof.Machine

open Sys2Proof.Config (CrcParams)

/-- `crc_bit(c)`: one shift step of the register toward bit 7 (R80). With `msbFirst = false`, which this hardware does
not have, the mirror image of it: a shift toward bit 0 with the polynomial's bits reversed (log entry 4). -/
def crcBit (p : CrcParams) (reg : Byte) : Byte :=
  if p.msbFirst then
    if reg[7] then (reg <<< 1) ^^^ p.poly else reg <<< 1
  else
    if reg[0] then (reg >>> 1) ^^^ p.poly.reverse else reg >>> 1

/-- `n` shift steps. -/
def crcBits (p : CrcParams) : Nat → Byte → Byte
  | 0, c => c
  | n + 1, c => crcBits p n (crcBit p c)

/-- `crc_byte(c, b)`: absorb one byte (R81). -/
def crcByte (p : CrcParams) (c b : Byte) : Byte := crcBits p 8 (c ^^^ b)

/-- `crc8(frame)`: the checksum of a byte sequence, in index order (R82). -/
def crc8 (p : CrcParams) (frame : List Byte) : Byte :=
  frame.foldl (crcByte p) p.init ^^^ p.xorOut

/-- `CRC <- CRC_INIT` (R83). -/
def State.crcLoad (s : State) : State := { s with crc := some Config.crc.init }

/-- `CRC <- crc_byte(CRC, b)` (R83). -/
def State.crcAbsorb (s : State) (b : Byte) : State := { s with crc := s.crc.map (crcByte Config.crc · b) }

/-- The final exclusive-or with `CRC_XOROUT` (R82). -/
def State.crcFinal (s : State) : State := { s with crc := s.crc.map (· ^^^ Config.crc.xorOut) }

/-- The register loop of a checksum computation (R83): afterwards `CRC` holds `crc8(frame)`. -/
def State.crcRun (frame : List Byte) (s : State) : State :=
  (frame.foldl State.crcAbsorb s.crcLoad).crcFinal

/-- The end of a pure CRC operation: `CRC` loses its value, the result is delivered, `ST` stays Idle (R21, R83). -/
def endCrc (v : OpValue) (s : State) : Result :=
  .next { s with crc := none, results := s.results ++ [.ok v] }

/-- `CRC.COMPUTE frame` (R83). -/
def execCrcCompute (frame : List Byte) (s : State) : Result :=
  whenIdle (fun s => readCrc (fun c => endCrc (.byte c) (s.crcRun frame)) (s.crcRun frame)) s

/-- `CRC.VALIDATE frame, expected_crc` (R84): a mismatch is the value `false`, not an error. -/
def execCrcValidate (frame : List Byte) (expected : Byte) (s : State) : Result :=
  whenIdle (fun s => readCrc (fun c => endCrc (.bool (checksumsAgree c expected)) (s.crcRun frame)) (s.crcRun frame)) s

end Sys2Proof.Machine
end

