-- ==== Sys2Proof/Machine/RegisterProtocol.lean ====
section
/-! DEFINITION. The register-read family (42_register_protocol.md): the meanings of `RP.WRITE_COMMAND`,
`RP.READ_FRAME` and `RP.READ_RAW`, each from request to result, and how an operation that waits for the transport goes
on when the answer comes. -/

namespace Sys2Proof.Machine

/-! ### RP.WRITE_COMMAND (R110) -/

/-- What `RP.WRITE_COMMAND` does with the answer. -/
def afterWriteCommand (a : Answer) (s : State) : Result :=
  match a with
  | .busError => raise .busError s
  | .ok _ => finish (.ok .unit) s

/-- The bus access of `RP.WRITE_COMMAND`: the bytes go to the transport unchanged, in one call. -/
def writeCommand (bytes : List Byte) (s : State) : Result :=
  await (.write s.cfg.i2cAddress bytes) afterWriteCommand s

/-- `RP.WRITE_COMMAND bytes` (R110). -/
def execRpWriteCommand (bytes : List Byte) (s : State) : Result :=
  whenIdle (fun s => writeCommand bytes (s.begin .writeCommand)) s

/-! ### RP.READ_FRAME (R113 to R115) -/

/-- Takes the answer of a `BusRead` into `CNT` and `BUF`: BusError and ShortReadError end the operation (R114, R131,
R132). -/
def receiveFrame (k : State → Result) (a : Answer) (s : State) : Result :=
  match a with
  | .busError => raise .busError s
  | .ok bs =>
    fillBuf bs (fun s => readCnt (fun cnt =>
      if isShort cnt (frameBytes s.cfg.crcEn) then raise .shortRead s else k s) s) s

/-- Returns `BUF[0..N-1]` as received, unverified (R115). -/
def returnFrame (s : State) : Result :=
  readBufs (List.range (frameBytes s.cfg.crcEn)) (fun bs => finish (.ok (.frame bs)) s) s

/-- The bus access of `RP.READ_FRAME`. -/
def readFrame (s : State) : Result := await s.cfg.readCall (receiveFrame returnFrame) s

/-- `RP.READ_FRAME` (R113). -/
def execRpReadFrame (s : State) : Result := whenIdle (fun s => readFrame (s.begin .readFrame)) s

/-! ### RP.READ_RAW (R116), one function per phase (R27) -/

/-- Phase `P_DECODE`: both counts from the data bytes; the operation ends with the reading. -/
def rawDecode (s : State) : Result :=
  readBuf 0 (fun d0 => readBuf 1 (fun d1 => readBuf 2 (fun d2 => readBuf 3 (fun d3 =>
    finish (.ok (.reading (decodeReading d0 d1 d2 d3))) s) s) s) s) s

/-- Phase `P_CHECK` (R117, R118): with CRC enabled, `crc8(BUF[0..3])` against `BUF[4]`; otherwise nothing. -/
def rawCheck (s : State) : Result :=
  if s.cfg.crcEn then
    readBufs dataIndices (fun data =>
      readCrc (fun computed =>
        readBuf checkIndex (fun expected =>
          if checksumsAgree computed expected then rawDecode ((s.crcRun data).setPh .decode)
          else raise .dataIntegrity (s.crcRun data)) (s.crcRun data)) (s.crcRun data)) s
  else rawDecode (s.setPh .decode)

/-- Phase `P_READ`: the frame, with its length check. -/
def rawRead (s : State) : Result :=
  await s.cfg.readCall (receiveFrame (fun s => rawCheck (s.setPh .check))) s

/-- What phase `P_WRITE` does with its answer: after a BusError no read is issued. -/
def afterRawWrite (a : Answer) (s : State) : Result :=
  match a with
  | .busError => raise .busError s
  | .ok _ => rawRead (s.setPh .read)

/-- Phase `P_WRITE`: the command sequence. -/
def rawWrite (s : State) : Result := await s.cfg.selectCall afterRawWrite s

/-- `RP.READ_RAW` (R116). -/
def execRpReadRaw (s : State) : Result :=
  whenIdle (fun s => rawWrite ((s.begin .readRaw).setPh .write)) s

/-! ### A waiting operation goes on (R122, R161) -/

/-- `RP.WRITE_COMMAND` goes on: the bytes are those of its outstanding write. -/
def resumeWriteCommand (s : State) : Result :=
  match s.call with
  | some (.write _ bytes) => writeCommand bytes s
  | some (.read _ _) => .fault .noOperationInProgress
  | none => .fault .noOperationInProgress

/-- `RP.READ_RAW` goes on from the phase it is in (R27). -/
def rawPhase (p : Phase) (s : State) : Result :=
  match p with
  | .write => rawWrite s
  | .read => rawRead s
  | .check => rawCheck s
  | .decode => rawDecode s

/-- The operation in progress goes on from where it waits: `RP.READ_RAW` by its phase register, the two others at their
one call. With no answer at hand it waits on. -/
def resume (s : State) : Result :=
  match s.inProgress with
  | some .writeCommand => resumeWriteCommand s
  | some .readFrame => readFrame s
  | some .readRaw => readPh (fun p => rawPhase p s) s
  | none => .fault .noOperationInProgress

end Sys2Proof.Machine
end

