-- ==== Sys2Proof/Machine/Reserved.lean ====
section
/-! DEFINITION. The reserved operation codes (30_encoding.md R69): the block takes no step, changes no state, issues no
bus access and returns no value. -/

namespace Sys2Proof.Machine

/-- The code `110` (R69). -/
def execReserved110 (_ : State) : Result := .refused .reservedCode

/-- The code `111` (R69). -/
def execReserved111 (_ : State) : Result := .refused .reservedCode

end Sys2Proof.Machine
end

