-- ==== Sys2Proof/Machine/Dispatch.lean ====
section
/-! DEFINITION. Which meaning each operation has: one arm per constructor of Instr (30_encoding.md R66). -/

namespace Sys2Proof.Machine

def exec (i : Instr) (s : State) : Host.Outcome State Fault Refusal :=
  match i with
  | .crcCompute frame => Sys2Proof.Machine.execCrcCompute frame s
  | .crcValidate frame expected => Sys2Proof.Machine.execCrcValidate frame expected s
  | .asmDecode d0 d1 d2 d3 => Sys2Proof.Machine.execAsmDecode d0 d1 d2 d3 s
  | .rpWriteCommand bytes => Sys2Proof.Machine.execRpWriteCommand bytes s
  | .rpReadFrame => Sys2Proof.Machine.execRpReadFrame s
  | .rpReadRaw => Sys2Proof.Machine.execRpReadRaw s
  | .reserved110 => Sys2Proof.Machine.execReserved110 s
  | .reserved111 => Sys2Proof.Machine.execReserved111 s

end Sys2Proof.Machine
end

