-- ==== Sys2Proof/Machine/Port.lean ====
section
/-! DEFINITION. The operation port: what becomes of a request record that is presented at it (30_encoding.md R63, R67,
R69; 10_state.md R29), and what the block does when its caller takes its turn. -/

namespace Sys2Proof.Machine

/-- A request presented at the operation port now: an ill-formed one is `Refused` (R69); any other is the operation it
stands for, which `exec` admits or refuses by `ST` (R29). -/
def operationPort (r : Request) (s : State) : Result :=
  match decodeRequest r with
  | .error _ => .refused .illFormedRequest
  | .ok i => exec i s

/-- The block at Idle: it takes the caller's next request, or stays at rest (R165). -/
def idleStep (s : State) : Result :=
  match s.requests with
  | [] => .next s
  | r :: rs => operationPort r { s with requests := rs }

/-- The request of a table word, placed where the block takes its next request. -/
def placeRequest (s : State) (nbits w : Nat) : State :=
  { s with requests := tableRequest nbits w :: s.requests }

end Sys2Proof.Machine
end

