-- ==== Sys2Proof/Machine/Step.lean ====
section
/-! DEFINITION. One step of the machine. At Idle the block takes the caller's next request and runs it to its result, or
to a transport call that has no answer yet; while Transacting the operation in progress goes on, and the caller waits
(10_state.md R26, R27, R29; 20_memory.md R49; 70_reset_and_hazards.md R165; log entries 7 and 12). -/

namespace Sys2Proof.Machine

def step (s : State) : Host.Outcome State Fault Refusal :=
  match s.st with
  | .idle => idleStep s
  | .transacting => resume s

/-- `s` with the request of a table word presented next. There is no program memory (R54): the request is put in front
of the caller's queue, and the next step of an Idle block takes it. -/
def State.withFetchWord (s : State) (nbits w : Nat) : State := placeRequest s nbits w

end Sys2Proof.Machine
end

