-- ==== Sys2Proof/Machine/Construct.lean ====
section
/-! DEFINITION. Construction of an instance, which is the block's reset (70_reset_and_hazards.md R150 to R153;
30_encoding.md R73). -/

namespace Sys2Proof.Machine

/-- The construction parameters, each optional (R150). -/
structure ConstructionParams where
  pressureRange : Option String := none
  enCrc : Option Bool := none
  offset : Option Int := none
  i2cAddress : Option DeviceAddress := none
  deriving DecidableEq, Repr

/-- The external spelling of a pressure range (R73). -/
def PressureRange.spelling : PressureRange → String
  | .r0505 => "0505"
  | .r0025 => "0025"
  | .r5050 => "5050"

/-- Recognition of a `pressure_range` string: exact match, no other spelling (R151). -/
def PressureRange.ofSpelling (text : String) : Option PressureRange :=
  if text = "0505" then some .r0505
  else if text = "0025" then some .r0025
  else if text = "5050" then some .r5050
  else none

/-- Construction (R150): `CFG` from the parameters and their defaults, everything else as after reset; an unrecognised
`pressure_range` is a ConfigurationError and there is no instance (R151, R134; log entry 18). -/
def construct (p : ConstructionParams) : Except OpError State :=
  match PressureRange.ofSpelling (p.pressureRange.getD "5050") with
  | none => .error .configuration
  | some range =>
    .ok { State.reset with
      cfg :=
        { crcEn := p.enCrc.getD Config.enCrcDefault
          i2cAddress := p.i2cAddress.getD Config.i2cAddrDefault
          pressureRange := range
          offset := p.offset.getD 0 } }

/-- Re-construction (R152): a reset replaces the whole state, and has a meaning only while `ST = Idle`. The requests and
answers that wait outside the block stay with the caller and the transport (log entry 15). -/
def reconstruct (p : ConstructionParams) (s : State) : Option (Except OpError State) :=
  match s.st with
  | .transacting => none
  | .idle =>
    match construct p with
    | .error e => some (.error e)
    | .ok t => some (.ok { t with requests := s.requests, answers := s.answers })

end Sys2Proof.Machine
end

