-- ==== Sys2Proof/Machine/Environment.lean ====
section
/-! DEFINITION. The block among its surroundings: what the caller, the transport and other devices on the bus may do
between steps (70_reset_and_hazards.md R166), runs of such moves, and the traffic on the bus along a run. The form is
the model's (log entry 23). -/

namespace Sys2Proof.Machine

/-- One move of a run. -/
inductive Move where
  /-- The block takes its step: the sequential caller's next request, or the operation in progress goes on. -/
  | step
  /-- A request is presented at the operation port now, by any caller (R159, R166). -/
  | present (r : Request)
  /-- The sequential caller has more requests to present later. -/
  | submit (rs : List Request)
  /-- The sequential caller gives up its next request. -/
  | withdraw
  /-- The transport has one more answer to give (R46). -/
  | answer (a : Answer)
  /-- A construction over this instance (R152). -/
  | construct (p : ConstructionParams)
  /-- Another device's transaction on the bus (R158). The block cannot see it. -/
  | otherTransaction
  deriving DecidableEq, Repr

/-- The state an outcome goes on in. -/
def nextState : Result → Option State
  | .next t => some t
  | .fault _ => none
  | .refused _ => none

/-- The state after a move; `none` where there is no such move: a refused request, which leaves its caller stuck and
is never queued (R159); a reset while Transacting (R152); a failed construction, after which there is no instance
(R151). -/
def Move.apply (m : Move) (s : State) : Option State :=
  match m with
  | .step => nextState (Machine.step s)
  | .present r => nextState (operationPort r s)
  | .submit rs => some (s.submit rs)
  | .withdraw => some s.withdraw
  | .answer a => some (s.supply [a])
  | .construct p =>
    match reconstruct p s with
    | some (.ok t) => some t
    | some (.error _) => none
    | none => none
  | .otherTransaction => some s

/-- The state at the end of a run, where every move of it can be made. -/
def runMoves : List Move → State → Option State
  | [], s => some s
  | m :: ms, s =>
    match m.apply s with
    | some t => runMoves ms t
    | none => none

/-- A premise on every move of a run and the state it is made in. -/
def Along (P : Move → State → Prop) : List Move → State → Prop
  | [], _ => True
  | m :: ms, s =>
    P m s ∧
      match m.apply s with
      | some t => Along P ms t
      | none => True

/-- What passes on the bus: an event of this instance, or a transaction of another device. -/
inductive BusTraffic where
  | own (e : BusEvent)
  | other
  deriving DecidableEq, Repr

/-- The traffic one move makes that leads from `s` to `t`. -/
def Move.traffic (m : Move) (s t : State) : List BusTraffic :=
  match m with
  | .otherTransaction => [.other]
  | .construct _ => []
  | .step => (t.history.drop s.history.length).map .own
  | .present _ => (t.history.drop s.history.length).map .own
  | .submit _ => []
  | .withdraw => []
  | .answer _ => []

/-- The traffic on the bus along a run. -/
def traffic : List Move → State → List BusTraffic
  | [], _ => []
  | m :: ms, s =>
    match m.apply s with
    | some t => m.traffic s t ++ traffic ms t
    | none => []

end Sys2Proof.Machine
end

