-- ==== Sys2Proof/Safety.lean ====
section
/-! DEFINITION. What a good state of the block is, and the premises a claim about a run may take
(10_state.md R21 to R33; 20_memory.md R51; 70_reset_and_hazards.md R167). -/

namespace Sys2Proof.Machine

/-- At Idle no transient register holds a value, nothing is in progress and no call is outstanding (R21, R22, R27, R33,
R139). -/
def State.IdleClean (s : State) : Prop :=
  s.ph = none ∧ s.crc = none ∧ s.buf = [] ∧ s.cnt = none ∧ s.inProgress = none ∧ s.call = none

/-- While Transacting the block waits for the answer to one call: that of a separate write or read, or that of the write
or the read phase of `RP.READ_RAW`; it has not filled the buffer or used `CRC` (R26, R27, R122). In the read phase the
event before is the answered write of the command, with nothing of this instance after it (R49, R50). -/
def State.Waiting (s : State) : Prop :=
  s.crc = none ∧ s.buf = [] ∧ s.cnt = none ∧
  ((s.inProgress = some .writeCommand ∧ s.ph = none ∧ ∃ bs, s.call = some (.write s.cfg.i2cAddress bs)) ∨
   (s.inProgress = some .readFrame ∧ s.ph = none ∧ s.call = some s.cfg.readCall) ∨
   (s.inProgress = some .readRaw ∧ s.ph = some .write ∧ s.call = some s.cfg.selectCall) ∨
   (s.inProgress = some .readRaw ∧ s.ph = some .read ∧ s.call = some s.cfg.readCall ∧
     ∃ before, s.history = before ++ [.write s.cfg.i2cAddress Config.cmdSelect (.ok [])]))

/-- The invariant of the state elements. -/
def State.Inv (s : State) : Prop :=
  (s.st = .idle → s.IdleClean) ∧ (s.st = .transacting → s.Waiting)

/-- What R51 says of one event of an instance with configuration `cfg`: the address is `CFG.i2c_address`, a read asks
for 4 or 5 bytes by `CFG.crc_en`, and the answer carries no more than the call asked for (R47). -/
def BusEvent.ofInstance (cfg : Cfg) : BusEvent → Prop
  | .write a bs ans => a = cfg.i2cAddress ∧ (BusCall.write a bs).admits ans = true
  | .read a n ans => a = cfg.i2cAddress ∧ n = frameBytes cfg.crcEn ∧ (BusCall.read a n).admits ans = true

/-- Every event of the history is one of this instance (R51). -/
def State.HistoryInv (s : State) : Prop := ∀ e ∈ s.history, e.ofInstance s.cfg

/-- The errors an operation can deliver: never ConfigurationError, which is construction's alone (R134). -/
def OpResult.OfOperation (r : OpResult) : Prop := r ≠ .err .configuration

/-- The state in which a bus operation has ended (R139, R166): Idle, no transient register with a value, nothing in
progress, no call outstanding, the answers `rest` left, the events `evs` recorded and the result `r` delivered. `CFG` and
the caller's requests are as before. -/
def State.ended (s : State) (r : OpResult) (rest : List Answer) (evs : List BusEvent) : State :=
  { s with
    st := .idle, ph := none, crc := none, buf := [], cnt := none, inProgress := none, call := none,
    answers := rest, history := s.history ++ evs, results := s.results ++ [r] }

/-- The integrity test on a full frame (R117, R118): with CRC disabled nothing is tested; with CRC enabled the checksum
of the four data bytes equals the fifth byte. -/
def checkPasses (crcEn : Bool) (frame : List Byte) : Bool :=
  !crcEn || (frame[4]?).any (fun k => checksumsAgree (crc8 Config.crc (frame.take 4)) k)

/-- `FreshInstance` (R167): the result of a successful construction, with whatever requests and answers wait outside. -/
def FreshInstance (s : State) : Prop :=
  ∃ p t, construct p = .ok t ∧ s = { t with requests := s.requests, answers := s.answers }

/-- `IdleAtStart` (R167). -/
def IdleAtStart (s : State) : Prop := s.atRest = true

/-- `PolyAdmissible` (R167, R89), of any checksum parameters. -/
def PolyAdmissible (p : Config.CrcParams) : Prop := p.poly ≠ 0x00

/-- `CmdNonEmpty` (R167). -/
def CmdNonEmpty : Prop := 1 ≤ Config.cmdSelect.length

/-! The premises of R167 on the environment during a run. -/

/-- The block does not meet an answer its port cannot carry (R47). -/
def AnswersAdmissible : List Move → State → Prop :=
  Along fun m s =>
    (m = .step → step s ≠ .refused .inadmissibleAnswer) ∧
    ∀ r, m = .present r → operationPort r s ≠ .refused .inadmissibleAnswer

/-- `TransportAnswers`: every transport call of the run is answered, with an answer the port can carry (R161). -/
def TransportAnswers (moves : List Move) (s : State) : Prop :=
  AnswersAdmissible moves s ∧ ∀ t, runMoves moves s = some t → t.call = none

/-- `NoResetInFlight`: no construction while `ST = Transacting` (R152). -/
def NoResetInFlight : List Move → State → Prop :=
  Along fun m s => ∀ p, m = .construct p → s.st = .idle

/-- `OneCallerAtATime`: no request is presented while `ST = Transacting` (R159). -/
def OneCallerAtATime : List Move → State → Prop :=
  Along fun m s => ∀ r, m = .present r → s.st = .idle

/-- `BusExclusive`: no other device's transaction between a write and the read that follows it (R158). -/
def BusExclusive (moves : List Move) (s : State) : Prop :=
  ∀ before between after a bs written b n answer,
    traffic moves s =
      before ++ .own (.write a bs written) :: (between ++ .own (.read b n answer) :: after) →
    (∀ x ∈ between, x = .other) → between = []

/-- The checksum parameters R6 fixes: initial value and final exclusive-or `0x00`, most significant bit first. The laws
of 40_crc.md rest on them and take them by this name (93_implementation_defined.md U2, U14). -/
def StandardParams (p : Config.CrcParams) : Prop := p.init = 0x00 ∧ p.xorOut = 0x00 ∧ p.msbFirst = true

end Sys2Proof.Machine
end

