-- ==== Sys2Proof/Certificates/Slice0/Obligations.lean ====
section
/-! DEFINITION. The statements for the provers, by rule of the spec. -/

open Sys2Proof Sys2Proof.Machine

/-! ### Encoding and the operation port -/

/-- 30_encoding.md R66, R63; 95_test_vectors.md P3, P4: words written out from the operation map and the flat form are
read as the operations they stand for, in the flat form and as table words. R66 gives the codes and R63 the order code,
operands, length byte first; that the code is bits 2:0 of a first byte with the operands from the second byte on is the
model's choice (log entry 13), and so is that a reserved code is read as an operation of its own and that a short table
word is completed with zero bytes (log entry 14). -/
def Obligations.WordsOfTheOperationMapDecode : Prop :=
  decode [0b000, 0x04, 0x12, 0x34, 0x56, 0x78] = .ok (.crcCompute [0x12, 0x34, 0x56, 0x78], []) ∧
  decode [0b001, 0x04, 0x80, 0x00, 0x7F, 0xFF, 0xFF] = .ok (.crcValidate [0x80, 0x00, 0x7F, 0xFF] 0xFF, []) ∧
  decode [0b010, 0x80, 0x00, 0x7F, 0xFF] = .ok (.asmDecode 0x80 0x00 0x7F 0xFF, []) ∧
  decode [0b011, 0x02, 0xAA, 0xBB] = .ok (.rpWriteCommand [0xAA, 0xBB], []) ∧
  decode [0b100] = .ok (.rpReadFrame, []) ∧
  decode [0b101] = .ok (.rpReadRaw, []) ∧
  decode [0b110] = .ok (.reserved110, []) ∧
  decode [0b111] = .ok (.reserved111, []) ∧
  decodeTableWord 8 0 = some (.crcCompute []) ∧
  decodeTableWord 8 5 = some .rpReadRaw

/-- R63, R64, R66: the flat form drops no bit of any operation. Every operation whose byte sequence one length byte can
count is read back from its flat form, operand for operand, whatever bytes follow. The place of the code in the first
byte is the model's choice (log entry 13), and so is that following bytes are not the operation's (log entry 22). -/
def Obligations.FlatFormRoundTrips : Prop :=
  ∀ (i : Instr) (rest : List Byte), i.fitsFlat = true → decode (encode i ++ rest) = .ok (i, rest)

/-- R63, R64, R67: a request record is read as an operation exactly when its operands are those its code takes, and then
it is the record of that operation: no two records stand for one operation. -/
def Obligations.RequestRecordHasOneMeaning : Prop :=
  ∀ r : Request,
    (∀ i, decodeRequest r = .ok i ↔ r = encodeRequest i) ∧
    ((∃ i, decodeRequest r = .ok i) ↔ r.operandsMatch = true) ∧
    ((∃ i, decodeRequest r = .ok i ∧ i.wellFormed = true) ↔ r.wellFormed = true)

/-- 10_state.md R29, 70_reset_and_hazards.md R165: at Idle a step takes the caller's next request out of the queue and
runs the operation it stands for, whatever that answers, and refuses an ill-formed one; with no request it stays at
rest; and a table word placed by `withFetchWord` is what the next step runs, in the state before the placing. The queue,
the step at rest and the placing as the presenting of a request are the model's choice (log entry 12), and so is how a
table word is completed to a request (log entries 14 and 22). -/
def Obligations.StepRunsTheDecodedRequest : Prop :=
  (∀ (s : State) (r : Request) (rs : List Request) (i : Instr), s.st = .idle → s.requests = r :: rs →
    decodeRequest r = .ok i → step s = exec i { s with requests := rs }) ∧
  (∀ (s : State) (r : Request) (rs : List Request) (e : DecodeError), s.st = .idle → s.requests = r :: rs →
    decodeRequest r = .error e → step s = .refused .illFormedRequest) ∧
  (∀ s : State, s.st = .idle → s.requests = [] → step s = .next s) ∧
  (∀ (s : State) (nbits w : Nat) (i : Instr), s.st = .idle → decodeTableWord nbits w = some i →
    step (s.withFetchWord nbits w) = exec i s)

/-- 10_state.md R29, 30_encoding.md R67, R69: exactly which requests the operation port turns away: those that are not
well formed, in every state, and every request while Transacting. The one other refusal is no matter of the request: a
transport answer the port cannot carry (20_memory.md R47). -/
def Obligations.PortRefusesExactlyWhatItDoesNotTake : Prop :=
  ∀ (r : Request) (s : State),
    (∃ why, operationPort r s = .refused why ∧ why ≠ .inadmissibleAnswer) ↔
      (r.wellFormed = false ∨ s.st = .transacting)

/-- 30_encoding.md R69: a reserved code is refused by that name, and an ill-formed request is refused, in every state:
no step, so no state change, no bus access and no value. Every 3-bit code is one of the six operations or refused. -/
def Obligations.ReservedAndIllFormedRequestsAreRefused : Prop :=
  (∀ s : State, exec .reserved110 s = .refused .reservedCode ∧ exec .reserved111 s = .refused .reservedCode) ∧
  (∀ (r : Request) (s : State), r.wellFormed = false → ∃ why, operationPort r s = .refused why) ∧
  ∀ r : Request,
    (r.op = 0b000#3 ∨ r.op = 0b001#3 ∨ r.op = 0b010#3 ∨ r.op = 0b011#3 ∨ r.op = 0b100#3 ∨ r.op = 0b101#3) ∨
      ((r.op = 0b110#3 ∨ r.op = 0b111#3) ∧ ∀ s : State, ∃ why, operationPort r s = .refused why)

/-- 10_state.md R29: the operation port takes a request only while Idle. While Transacting each of the six operations is
refused for that reason, and any request is refused; an operation that makes a step made it from Idle. -/
def Obligations.NoOperationIsTakenWhileTransacting : Prop :=
  (∀ (i : Instr) (s : State), i.wellFormed = true → s.st = .transacting → exec i s = .refused .transacting) ∧
  (∀ (r : Request) (s : State), s.st = .transacting → ∃ why, operationPort r s = .refused why) ∧
  ∀ (i : Instr) (s t : State), exec i s = .next t → s.st = .idle

/-- 95_test_vectors.md P5: a refused request does not disturb the next one. At Idle, if the front request is refused
and the caller gives it up, the step that follows is the one the machine would have made without it. That the caller
gives it up is the model's choice (log entry 12). -/
def Obligations.RefusedRequestLeavesNoTrace : Prop :=
  ∀ (s : State) (bad good : Request) (rs : List Request) (i : Instr) (why : Refusal),
    s.st = .idle → s.requests = bad :: good :: rs → step s = .refused why → decodeRequest good = .ok i →
    step s.withdraw = exec i { s with requests := rs }

/-! ### Construction and reset -/

/-- 70_reset_and_hazards.md R150, 10_state.md R33: construction with a recognised range loads `CFG` from the parameters
or their defaults, sets Idle, leaves `PH`, `CRC`, `BUF`, `CNT` without a value, and accesses no bus (R153). With no
parameter given it is the reset state. -/
def Obligations.ConstructionLoadsConfiguration : Prop :=
  construct {} = .ok State.reset ∧
  ∀ (p : ConstructionParams) (range : PressureRange),
    (p.pressureRange = some range.spelling ∨ (p.pressureRange = none ∧ range = .r5050)) →
    ∃ s, construct p = .ok s ∧
      s.cfg.pressureRange = range ∧ s.cfg.crcEn = p.enCrc.getD false ∧ s.cfg.offset = p.offset.getD 0 ∧
      s.cfg.i2cAddress = p.i2cAddress.getD 0x6C ∧
      s.st = .idle ∧ s.ph = none ∧ s.crc = none ∧ s.buf = [] ∧ s.cnt = none ∧
      s.inProgress = none ∧ s.call = none ∧ s.history = []

/-- 70_reset_and_hazards.md R151: construction fails, with ConfigurationError and no instance, exactly when a
`pressure_range` is given and is none of the three strings. -/
def Obligations.ConstructionFailsExactlyOnUnknownRange : Prop :=
  ∀ (p : ConstructionParams) (e : OpError),
    construct p = .error e ↔
      e = .configuration ∧
        ∃ text, p.pressureRange = some text ∧ text ≠ "0505" ∧ text ≠ "0025" ∧ text ≠ "5050"

/-- 70_reset_and_hazards.md R152: a re-construction has no meaning while Transacting; at Idle it answers what a
construction answers, and every element of the state is replaced. That the requests and answers waiting outside stay is
the model's choice (log entry 15). -/
def Obligations.ReconstructionReplacesTheState : Prop :=
  (∀ (p : ConstructionParams) (s : State), s.st = .transacting → reconstruct p s = none) ∧
  (∀ (p : ConstructionParams) (s t : State), s.st = .idle → construct p = .ok t →
    reconstruct p s = some (.ok { t with requests := s.requests, answers := s.answers })) ∧
  (∀ (p : ConstructionParams) (s : State) (e : OpError), s.st = .idle → construct p = .error e →
    reconstruct p s = some (.error e))

/-! ### The CRC family -/

/-- The polynomial over the field of two elements whose coefficient of x^i is bit `i` of a byte (40_crc.md R80). -/
noncomputable def Sys2Proof.bytePoly (b : Byte) : Polynomial (ZMod 2) :=
  ∑ i ∈ Finset.range 8, if b.getLsbD i then Polynomial.X ^ i else 0

/-- The polynomial of a frame, `frame[0][7]` the highest power (40_crc.md R82). -/
noncomputable def Sys2Proof.framePoly (frame : List Byte) : Polynomial (ZMod 2) :=
  frame.foldl (fun acc b => acc * Polynomial.X ^ 8 + bytePoly b) 0

/-- `G(x)`, the generator polynomial of a checksum (40_crc.md R80). -/
noncomputable def Sys2Proof.generator (p : Config.CrcParams) : Polynomial (ZMod 2) := Polynomial.X ^ 8 + bytePoly p.poly

/-- 40_crc.md R80: bit `i` of `crc_bit(c)` is bit `i-1` of `c` (0 for bit 0), exclusive-ored with bit `i` of the
polynomial when bit 7 of `c` is 1; in polynomials, it is `c(x) * x` modulo `G(x)`. -/
def Obligations.CrcBitShiftsTowardBitSeven : Prop :=
  ∀ (p : Config.CrcParams) (reg : Byte), p.msbFirst = true →
    (reg[7] = true → crcBit p reg = (reg <<< 1) ^^^ p.poly) ∧
    (reg[7] = false → crcBit p reg = reg <<< 1) ∧
    (∀ i, i < 8 → (crcBit p reg).getLsbD i =
      ((decide (0 < i) && reg.getLsbD (i - 1)) ^^ (reg[7] && p.poly.getLsbD i))) ∧
    bytePoly (crcBit p reg) = (bytePoly reg * Polynomial.X) %ₘ generator p

/-- 40_crc.md R81: a byte is exclusive-ored into the register, which is then shifted eight times; in polynomials, it is
`(c(x) xor b(x)) * x^8` modulo `G(x)`. So the bytes of a frame act in index order (R82). -/
def Obligations.ChecksumAbsorbsBytesInOrder : Prop :=
  (∀ (p : Config.CrcParams) (c b : Byte),
    crcByte p c b = (crcBit p)^[8] (c ^^^ b) ∧
    (p.msbFirst = true →
      bytePoly (crcByte p c b) = (bytePoly (c ^^^ b) * Polynomial.X ^ 8) %ₘ generator p)) ∧
  ∀ p : Config.CrcParams, StandardParams p →
    crc8 p [] = 0x00 ∧ ∀ (frame : List Byte) (b : Byte), crc8 p (frame ++ [b]) = crcByte p (crc8 p frame) b

/-- 40_crc.md section 1, the law the spec derives for `crc8` there from R80 and R81: the checksum is the remainder of
`M(x) * x^8` by `G(x)`, for every polynomial and every frame. -/
def Obligations.ChecksumIsPolynomialRemainder : Prop :=
  ∀ (p : Config.CrcParams) (frame : List Byte), StandardParams p →
    bytePoly (crc8 p frame) = (framePoly frame * Polynomial.X ^ 8) %ₘ generator p

/-- 40_crc.md section 3, the residue form, a law the spec derives from R81 and R82. Absorbing the check byte gives
`0x00`; the test for `0x00` accepts exactly what `CRC.VALIDATE` accepts when eight shifts map only `0x00` to `0x00`, as
they do when bit 0 of the polynomial is 1; with bit 0 equal to 0 it can accept a wrong check byte. -/
def Obligations.ResidueTestMatchesValidate : Prop :=
  (∀ (p : Config.CrcParams) (frame : List Byte), StandardParams p →
    crc8 p (frame ++ [crc8 p frame]) = 0x00 ∧
    (∀ e : Byte, crc8 p (frame ++ [e]) = (crcBit p)^[8] (crc8 p frame ^^^ e)) ∧
    ((∀ c : Byte, (crcBit p)^[8] c = 0x00 → c = 0x00) →
      ∀ e : Byte, checksumsAgree (crc8 p frame) e = true ↔ crc8 p (frame ++ [e]) = 0x00)) ∧
  (∀ p : Config.CrcParams, p.msbFirst = true → p.poly[0] = true →
    Function.Bijective (crcBit p) ∧ ∀ c : Byte, (crcBit p)^[8] c = 0x00 → c = 0x00) ∧
  ∃ (p : Config.CrcParams) (frame : List Byte) (e : Byte), StandardParams p ∧ PolyAdmissible p ∧
    p.poly[0] = false ∧ crc8 p (frame ++ [e]) = 0x00 ∧ e ≠ crc8 p frame

/-- 40_crc.md section 3, single-bit errors, a law the spec derives from R80 to R82. The checksum is linear; changing bit
`j` of byte `i` changes it by `x^(8*(L-1-i)+j+8) mod G`, which is not zero for an admissible polynomial, so the changed
frame fails the comparison with the old checksum; and so does the frame with a check byte changed in one bit. -/
def Obligations.SingleBitErrorsAreDetected : Prop :=
  ∀ p : Config.CrcParams, StandardParams p →
    (∀ a b : List Byte, a.length = b.length → crc8 p (List.zipWith (· ^^^ ·) a b) = crc8 p a ^^^ crc8 p b) ∧
    (∀ (frame : List Byte) (i j : Nat) (b : Byte), frame[i]? = some b → j < 8 →
      let changed := crc8 p (frame.set i (b ^^^ BitVec.twoPow 8 j))
      bytePoly (changed ^^^ crc8 p frame) = Polynomial.X ^ (8 * (frame.length - 1 - i) + j + 8) %ₘ generator p ∧
      (PolyAdmissible p → changed ^^^ crc8 p frame ≠ 0x00 ∧ checksumsAgree changed (crc8 p frame) = false)) ∧
    (∀ (frame : List Byte) (j : Nat), j < 8 →
      checksumsAgree (crc8 p frame) (crc8 p frame ^^^ BitVec.twoPow 8 j) = false)

/-- 95_test_vectors.md section 2.5: errors of more bits can pass. With polynomial `0x31` the pattern
`D0 04 00 00`, and with `0x07` the pattern `C2 40 00 00`, leaves the checksum of every four-byte frame unchanged. -/
def Obligations.SomeFourBitErrorsPass : Prop :=
  ∀ d0 d1 d2 d3 : Byte,
    crc8 ⟨0x31, 0x00, 0x00, true⟩ [d0 ^^^ 0xD0, d1 ^^^ 0x04, d2, d3] = crc8 ⟨0x31, 0x00, 0x00, true⟩ [d0, d1, d2, d3] ∧
    crc8 ⟨0x07, 0x00, 0x00, true⟩ [d0 ^^^ 0xC2, d1 ^^^ 0x40, d2, d3] = crc8 ⟨0x07, 0x00, 0x00, true⟩ [d0, d1, d2, d3]

/-- 40_crc.md section 3, the law on zeros, which the spec derives from R80 to R82. A frame of zero bytes has checksum
`0x00`, a leading zero byte does not change a checksum, so the all-zero five-byte frame passes the check, and frames of
different length can share a checksum. -/
def Obligations.ZeroBytesLeaveTheChecksum : Prop :=
  ∀ p : Config.CrcParams, StandardParams p →
    crcByte p 0x00 0x00 = 0x00 ∧
    (∀ n : Nat, crc8 p (List.replicate n 0x00) = 0x00) ∧
    (∀ frame : List Byte, crc8 p (0x00 :: frame) = crc8 p frame) ∧
    checksumsAgree (crc8 p [0x00, 0x00, 0x00, 0x00]) 0x00 = true ∧
    ∀ frame : List Byte, ∃ longer : List Byte, longer.length ≠ frame.length ∧ crc8 p longer = crc8 p frame

/-- 40_crc.md R89: with polynomial `0x00` a shift step is a plain shift and every checksum is `0x00`, so a frame with
check byte `0x00` is accepted and a one-bit error passes; the polynomial of this hardware is not `0x00`, and every other
byte is one value of it. -/
def Obligations.ZeroPolynomialIsExcluded : Prop :=
  (∀ p : Config.CrcParams, StandardParams p → p.poly = 0x00 →
    (∀ c : Byte, crcBit p c = c <<< 1) ∧
    (∀ frame : List Byte, crc8 p frame = 0x00 ∧ checksumsAgree (crc8 p frame) 0x00 = true) ∧
    ∃ (frame : List Byte) (i j : Nat) (b : Byte), frame[i]? = some b ∧ j < 8 ∧
      checksumsAgree (crc8 p (frame.set i (b ^^^ BitVec.twoPow 8 j))) (crc8 p frame) = true) ∧
  StandardParams Config.crc ∧ PolyAdmissible Config.crc ∧
  ∀ b : Byte, b ≠ 0x00 ↔ ∃ i : Fin 255, Config.polyOfIndex i = b

/-- 40_crc.md R83: at Idle `CRC.COMPUTE` always completes with the checksum of its frame; nothing else of the state
changes, and `CRC` holds no value afterwards. The corner cases of the rule, for every polynomial; its worked example,
for `0x31`. Of the corner cases, the one for `[0x01]` is marked in R83 as derived from R80, and the one for zero bytes
is the law on zeros of 40_crc.md section 3, derived there. -/
def Obligations.CrcComputeDeliversTheChecksum : Prop :=
  (∀ (frame : List Byte) (s : State), s.st = .idle →
    exec (.crcCompute frame) s =
      .next { s with crc := none, results := s.results ++ [.ok (.byte (crc8 Config.crc frame))] }) ∧
  (∀ p : Config.CrcParams, StandardParams p →
    crc8 p [] = 0x00 ∧ (∀ n : Nat, crc8 p (List.replicate n 0x00) = 0x00) ∧ crc8 p [0x01] = p.poly) ∧
  crc8 ⟨0x31, 0x00, 0x00, true⟩ [0x79, 0x39, 0x2B, 0x4E] = 0x02

/-- 40_crc.md R84: at Idle `CRC.VALIDATE` always completes, with `true` exactly when all 8 bits agree and `false`
otherwise, never with an error; nothing else of the state changes. The corner cases of the rule, of which
the one for zero bytes rests on the law on zeros that 40_crc.md section 3 derives; its worked examples. -/
def Obligations.CrcValidateDeliversTheComparison : Prop :=
  (∀ (frame : List Byte) (expected : Byte) (s : State), s.st = .idle →
    exec (.crcValidate frame expected) s =
      .next { s with
        crc := none, results := s.results ++ [.ok (.bool (decide (crc8 Config.crc frame = expected)))] }) ∧
  (∀ p : Config.CrcParams, StandardParams p →
    checksumsAgree (crc8 p []) 0x00 = true ∧ checksumsAgree (crc8 p [0x00, 0x00, 0x00, 0x00]) 0x00 = true) ∧
  checksumsAgree (crc8 ⟨0x31, 0x00, 0x00, true⟩ [0x79, 0x39, 0x2B, 0x4E]) 0x02 = true ∧
  checksumsAgree (crc8 ⟨0x31, 0x00, 0x00, true⟩ [0x79, 0x39, 0x2B, 0x4E]) 0x03 = false

/-- 40_crc.md section 3, purity, with R83 and R84: two computations over equal frames deliver the same byte, whatever
ran before; and a validation of the frame against that byte, in any Idle state, delivers `true`. -/
def Obligations.ValidateAcceptsTheComputedChecksum : Prop :=
  ∀ (frame : List Byte) (s₁ s₂ s₃ : State), s₁.st = .idle → s₂.st = .idle → s₃.st = .idle →
    ∃ (c : Byte) (t₁ t₂ t₃ : State),
      exec (.crcCompute frame) s₁ = .next t₁ ∧ t₁.results = s₁.results ++ [.ok (.byte c)] ∧
      exec (.crcCompute frame) s₂ = .next t₂ ∧ t₂.results = s₂.results ++ [.ok (.byte c)] ∧
      exec (.crcValidate frame c) s₃ = .next t₃ ∧ t₃.results = s₃.results ++ [.ok (.bool true)]

/-! ### The assembler -/

/-- 41_assembler.md R100, and R101 with the spec's decision D11 (log entry 19): `be16` puts `hi` in bits 15:8 and `lo`
in bits 7:0; `s16` is the two's complement reading, which widening by copies of the sign bit keeps; the sign bit of a
count is bit 7 of its first byte. -/
def Obligations.CountsAreBigEndianTwosComplement : Prop :=
  (∀ hi lo : Byte,
    (be16 hi lo).toNat = hi.toNat * 256 + lo.toNat ∧
    (be16 hi lo).extractLsb' 8 8 = hi ∧ (be16 hi lo).extractLsb' 0 8 = lo ∧
    (be16 hi lo)[15] = hi[7]) ∧
  ∀ v : Count16,
    (v[15] = false → s16 v = v.toNat ∧ 0 ≤ s16 v ∧ s16 v ≤ 32767) ∧
    (v[15] = true → s16 v = (v.toNat : Int) - 65536 ∧ -32768 ≤ s16 v ∧ s16 v ≤ -1) ∧
    ∀ n, 16 < n → (v.signExtend n).toInt = s16 v

/-- 41_assembler.md R103: at Idle `ASM.DECODE` always completes with the two counts of its byte pairs; no element of the
state changes. The corner cases and the worked example of the rule. -/
def Obligations.AsmDecodeDeliversTheReading : Prop :=
  (∀ (d0 d1 d2 d3 : Byte) (s : State), s.st = .idle →
    exec (.asmDecode d0 d1 d2 d3) s =
      .next { s with
        results := s.results ++ [.ok (.reading ⟨s16 (be16 d0 d1), s16 (be16 d2 d3)⟩)] }) ∧
  decodeReading 0x00 0x00 0x00 0x00 = ⟨0, 0⟩ ∧
  decodeReading 0x7F 0xFF 0x80 0x00 = ⟨32767, -32768⟩ ∧
  decodeReading 0xFF 0xFF 0xFF 0xFF = ⟨-1, -1⟩ ∧
  decodeReading 0x80 0x00 0x7F 0xFF = ⟨-32768, 32767⟩ ∧
  decodeReading 0x79 0x39 0x2B 0x4E = ⟨31033, 11086⟩

/-- 41_assembler.md section 3, a law the spec derives from R100 and R101: the decode is a bijection between the
four-byte sequences and the pairs of integers in -32768..32767, and `encodeReading` is its inverse. -/
def Obligations.DecodeIsABijection : Prop :=
  (∀ (d0 d1 d2 d3 : Byte) (r : RawReading), r = decodeReading d0 d1 d2 d3 →
    -32768 ≤ r.pressureCount ∧ r.pressureCount ≤ 32767 ∧ -32768 ≤ r.temperatureCount ∧ r.temperatureCount ≤ 32767 ∧
    encodeReading r = [d0, d1, d2, d3]) ∧
  ∀ p t : Int, -32768 ≤ p → p ≤ 32767 → -32768 ≤ t → t ≤ 32767 →
    ∃ d0 d1 d2 d3 : Byte, encodeReading ⟨p, t⟩ = [d0, d1, d2, d3] ∧ decodeReading d0 d1 d2 d3 = ⟨p, t⟩ ∧
      (be16 d0 d1).toNat = (if 0 ≤ p then p else p + 65536).toNat ∧
      (be16 d2 d3).toNat = (if 0 ≤ t then t else t + 65536).toNat

/-! ### The register-read family -/

/-- 42_register_protocol.md R112: 4 bytes are requested when CRC is disabled, 5 when it is enabled, from
`CFG.i2c_address`. -/
def Obligations.RequestedLengthFollowsCrcEnable : Prop :=
  frameBytes false = 4 ∧ frameBytes true = 5 ∧
  ∀ cfg : Cfg, cfg.readCall = .read cfg.i2cAddress (if cfg.crcEn then 5 else 4)

/-- 42_register_protocol.md R110: `RP.WRITE_COMMAND` hands its bytes, unchanged and in one call, to the transport at
`CFG.i2c_address`, and completes by the answer: `Ok(())` or `Err(BusError)`, with that one event and Idle after it. -/
def Obligations.WriteCommandCompletesByTheAnswer : Prop :=
  ∀ (bytes : List Byte) (s : State) (rest : List Answer), s.st = .idle →
    (s.answers = .ok [] :: rest →
      exec (.rpWriteCommand bytes) s =
        .next (s.ended (.ok .unit) rest [.write s.cfg.i2cAddress bytes (.ok [])])) ∧
    (s.answers = .busError :: rest →
      exec (.rpWriteCommand bytes) s =
        .next (s.ended (.err .busError) rest [.write s.cfg.i2cAddress bytes .busError]))

/-- 42_register_protocol.md R113 to R115: `RP.READ_FRAME` issues one read of `N` bytes and completes by the answer: a
full frame is returned as received, unchecked; fewer bytes are a ShortReadError with none of them returned; a transport
error is a BusError. -/
def Obligations.ReadFrameCompletesByTheAnswer : Prop :=
  ∀ (s : State) (rest : List Answer), s.st = .idle →
    let n := if s.cfg.crcEn then 5 else 4
    (∀ bs, s.answers = .ok bs :: rest → bs.length = n →
      exec .rpReadFrame s = .next (s.ended (.ok (.frame bs)) rest [.read s.cfg.i2cAddress n (.ok bs)])) ∧
    (∀ bs, s.answers = .ok bs :: rest → bs.length < n →
      exec .rpReadFrame s = .next (s.ended (.err .shortRead) rest [.read s.cfg.i2cAddress n (.ok bs)])) ∧
    (s.answers = .busError :: rest →
      exec .rpReadFrame s = .next (s.ended (.err .busError) rest [.read s.cfg.i2cAddress n .busError]))

/-- 42_register_protocol.md R116 to R118: `RP.READ_RAW`, one case for each answer of the transport, in the order in
which the errors can arise: BusError at the write (no read is issued), BusError at the read, a short frame, a full frame
whose checksum is right or not tested, a full frame whose checksum is wrong. With CRC disabled 4 bytes are asked for and
a full frame is decoded unchecked, the check phase doing nothing in any state; with CRC enabled 5, and the four data
bytes are checked against the fifth. -/
def Obligations.ReadRawCompletesByTheAnswers : Prop :=
  ∀ (s : State) (rest : List Answer), s.st = .idle →
    let n := if s.cfg.crcEn then 5 else 4
    let w := fun a => BusEvent.write s.cfg.i2cAddress Config.cmdSelect a
    let r := fun a => BusEvent.read s.cfg.i2cAddress n a
    (s.answers = .busError :: rest →
      exec .rpReadRaw s = .next (s.ended (.err .busError) rest [w .busError])) ∧
    (s.answers = .ok [] :: .busError :: rest →
      exec .rpReadRaw s = .next (s.ended (.err .busError) rest [w (.ok []), r .busError])) ∧
    (∀ bs, s.answers = .ok [] :: .ok bs :: rest → bs.length < n →
      exec .rpReadRaw s = .next (s.ended (.err .shortRead) rest [w (.ok []), r (.ok bs)])) ∧
    (∀ d0 d1 d2 d3, s.cfg.crcEn = false → s.answers = .ok [] :: .ok [d0, d1, d2, d3] :: rest →
      exec .rpReadRaw s = .next (s.ended (.ok (.reading ⟨s16 (be16 d0 d1), s16 (be16 d2 d3)⟩)) rest
        [w (.ok []), r (.ok [d0, d1, d2, d3])])) ∧
    (∀ d0 d1 d2 d3 k, s.cfg.crcEn = true → s.answers = .ok [] :: .ok [d0, d1, d2, d3, k] :: rest →
      (crc8 Config.crc [d0, d1, d2, d3] = k →
        exec .rpReadRaw s = .next (s.ended (.ok (.reading ⟨s16 (be16 d0 d1), s16 (be16 d2 d3)⟩)) rest
          [w (.ok []), r (.ok [d0, d1, d2, d3, k])])) ∧
      (crc8 Config.crc [d0, d1, d2, d3] ≠ k →
        exec .rpReadRaw s = .next (s.ended (.err .dataIntegrity) rest
          [w (.ok []), r (.ok [d0, d1, d2, d3, k])]))) ∧
    ∀ u : State, u.cfg.crcEn = false → rawCheck u = rawDecode (u.setPh .decode)

/-- 42_register_protocol.md R117 with the single-bit law of 40_crc.md section 3; 95_test_vectors.md V-P3, V-P4: with
CRC enabled, a frame that differs in exactly one of its 40 bits from one whose check byte is right is never returned as
a reading: the result is DataIntegrityError, for every admissible polynomial. -/
def Obligations.FrameWithOneBitErrorIsRejected : Prop :=
  ∀ (s : State) (rest : List Answer) (d0 d1 d2 d3 b : Byte) (i j : Nat), s.st = .idle → s.cfg.crcEn = true → j < 8 →
    let good := [d0, d1, d2, d3, crc8 Config.crc [d0, d1, d2, d3]]
    good[i]? = some b →
    s.answers = .ok [] :: .ok (good.set i (b ^^^ BitVec.twoPow 8 j)) :: rest →
    ∃ t, exec .rpReadRaw s = .next t ∧ t.results = s.results ++ [.err .dataIntegrity] ∧ t.st = .idle

/-- 42_register_protocol.md R116 to R119, and what 70_reset_and_hazards.md section 3 derives from R116: what a reading
delivered by `RP.READ_RAW` says. Its last two events are the select command and a read, both at `CFG.i2c_address`; the
read brought a full frame; with CRC enabled the checksum of the data bytes was the check byte; and the reading is the
decode of those data bytes. -/
def Obligations.DeliveredReadingComesFromACheckedFrame : Prop :=
  ∀ (s t : State) (v : OpValue), exec .rpReadRaw s = .next t → t.results = s.results ++ [.ok v] →
    ∃ d0 d1 d2 d3 tail,
      t.history = s.history ++
        [.write s.cfg.i2cAddress Config.cmdSelect (.ok []),
         .read s.cfg.i2cAddress (if s.cfg.crcEn then 5 else 4) (.ok (d0 :: d1 :: d2 :: d3 :: tail))] ∧
      tail = (if s.cfg.crcEn then [crc8 Config.crc [d0, d1, d2, d3]] else []) ∧
      v = .reading (decodeReading d0 d1 d2 d3)

/-- 42_register_protocol.md R122, 70_reset_and_hazards.md R161, 20_memory.md R49: a call that has no answer. The
operation waits: `ST = Transacting`, the call outstanding, nothing delivered and no event; a step of the waiting block
changes nothing; and `RP.READ_RAW` issues its read only after the answer to its write. That a step ends at an
unanswered call, and that the call is held in State, is the model's choice (log entries 7 and 9). -/
def Obligations.UnansweredCallWaitsWithoutBound : Prop :=
  (∀ (s : State) (bytes : List Byte), s.st = .idle → s.answers = [] →
    exec (.rpWriteCommand bytes) s =
      .next { s with
        st := .transacting, inProgress := some .writeCommand, call := some (.write s.cfg.i2cAddress bytes) }) ∧
  (∀ s : State, s.st = .idle → s.answers = [] →
    exec .rpReadFrame s =
      .next { s with st := .transacting, inProgress := some .readFrame, call := some s.cfg.readCall }) ∧
  (∀ s : State, s.st = .idle → s.answers = [] →
    exec .rpReadRaw s =
      .next { s with
        st := .transacting, ph := some .write, inProgress := some .readRaw,
        call := some (.write s.cfg.i2cAddress Config.cmdSelect) }) ∧
  (∀ s : State, s.st = .idle → s.answers = [.ok []] →
    exec .rpReadRaw s =
      .next { s with
        st := .transacting, ph := some .read, inProgress := some .readRaw, call := some s.cfg.readCall, answers := [],
        history := s.history ++ [.write s.cfg.i2cAddress Config.cmdSelect (.ok [])] }) ∧
  (∀ s : State, s.Inv → s.st = .transacting → s.answers = [] → step s = .next s)

/-- 42_register_protocol.md R122, 20_memory.md R49, R50: an answer that comes late changes nothing. If an operation
waits after the answers `early`, then the step taken once the answers `late` are there does what the operation would
have done with all of them at hand. That an operation can be resumed so is the model's choice (log entry 7). -/
def Obligations.LateAnswersCompleteTheSameOperation : Prop :=
  ∀ (i : Instr) (s t : State) (early late : List Answer), s.Inv → s.st = .idle →
    exec i { s with answers := early } = .next t → t.st = .transacting →
    step { t with answers := late } = exec i { s with answers := early ++ late }

/-- 20_memory.md R47: an answer longer than the call asked for is not taken: no step, for each of the operations that
reach the bus. For a write every byte is one too many, which is the model's reading (log entry 8). -/
def Obligations.OverlongAnswerIsNotTaken : Prop :=
  ∀ (s : State) (bs : List Byte) (rest : List Answer), s.st = .idle →
    (∀ bytes, s.answers = .ok bs :: rest → bs ≠ [] →
      exec (.rpWriteCommand bytes) s = .refused .inadmissibleAnswer) ∧
    (s.answers = .ok bs :: rest → (if s.cfg.crcEn then 5 else 4) < bs.length →
      exec .rpReadFrame s = .refused .inadmissibleAnswer) ∧
    (s.answers = .ok [] :: .ok bs :: rest → (if s.cfg.crcEn then 5 else 4) < bs.length →
      exec .rpReadRaw s = .refused .inadmissibleAnswer) ∧
    (s.answers = .ok bs :: rest → bs ≠ [] → exec .rpReadRaw s = .refused .inadmissibleAnswer)

/-- 70_reset_and_hazards.md R161: when the transport answers every call of an operation, the operation ends, at Idle,
with exactly one result. For `RP.READ_RAW` one answer is enough when it is BusError, since no read is issued then. That
it ends in one step is the model's choice (log entry 7; R27 leaves it open), and which answers the port can carry back
is 20_memory.md R47 as log entry 8 has it. -/
def Obligations.AnsweredOperationEndsInOneStep : Prop :=
  ∀ (i : Instr) (s : State), i.wellFormed = true → s.st = .idle →
    (∀ bytes, i = .rpWriteCommand bytes →
      ∃ a rest, s.answers = a :: rest ∧ (BusCall.write s.cfg.i2cAddress bytes).admits a = true) →
    (i = .rpReadFrame → ∃ a rest, s.answers = a :: rest ∧ s.cfg.readCall.admits a = true) →
    (i = .rpReadRaw → ∃ a rest, s.answers = a :: rest ∧ s.cfg.selectCall.admits a = true ∧
      (a = .busError ∨ ∃ b rest', rest = b :: rest' ∧ s.cfg.readCall.admits b = true)) →
    ∃ t r, exec i s = .next t ∧ t.st = .idle ∧ t.results = s.results ++ [r]

/-- 42_register_protocol.md section 3, a law the spec derives from R110, R113, R116, R84 and R103: when no error
arises, `RP.READ_RAW` leaves the same state, events and reading as the four separate operations issued one after the
other, except for the results the separate ones deliver on the way. -/
def Obligations.ReadRawAgreesWithSeparateOperations : Prop :=
  ∀ (s : State) (d0 d1 d2 d3 : Byte) (tail : List Byte) (rest : List Answer), s.st = .idle →
    tail = (if s.cfg.crcEn then [crc8 Config.crc [d0, d1, d2, d3]] else []) →
    s.answers = .ok [] :: .ok (d0 :: d1 :: d2 :: d3 :: tail) :: rest →
    ∃ t u₁ u₂ u₃ u₄,
      exec .rpReadRaw s = .next t ∧
      exec (.rpWriteCommand Config.cmdSelect) s = .next u₁ ∧ u₁.results = s.results ++ [.ok .unit] ∧
      exec .rpReadFrame u₁ = .next u₂ ∧ u₂.results = u₁.results ++ [.ok (.frame (d0 :: d1 :: d2 :: d3 :: tail))] ∧
      (∀ k, tail = [k] → exec (.crcValidate [d0, d1, d2, d3] k) u₂ = .next u₃ ∧
        u₃.results = u₂.results ++ [.ok (.bool true)]) ∧
      (tail = [] → u₃ = u₂) ∧
      exec (.asmDecode d0 d1 d2 d3) u₃ = .next u₄ ∧
      (∃ reading, u₄.results = u₃.results ++ [.ok (.reading reading)] ∧
        t.results = s.results ++ [.ok (.reading reading)]) ∧
      t = { u₄ with results := t.results }

/-! ### Errors -/

/-- 60_exceptions.md R139: what `raise E` does, in every state: Idle, the transient registers without a value, the
result `Err(E)` delivered, `CFG` unchanged, no further transport call, and nothing else of the state changed; the
block then takes the next request (R140). -/
def Obligations.RaisingAnErrorReturnsToIdle : Prop :=
  ∀ (e : OpError) (s : State), ∃ t, raise e s = .next t ∧
    t.st = .idle ∧ t.ph = none ∧ t.crc = none ∧ t.buf = [] ∧ t.cnt = none ∧ t.inProgress = none ∧
    t.call = none ∧ t.results = s.results ++ [.err e] ∧ t.cfg = s.cfg ∧ t.history = s.history ∧ t.answers = s.answers ∧
    t.requests = s.requests ∧
    ∀ (r : Request) (rs : List Request) (i : Instr), s.requests = r :: rs → decodeRequest r = .ok i →
      step t = exec i { t with requests := rs }

/-- 60_exceptions.md R130, the codes being the spec's decision D13: the codes of the errors, in the order of the
taxonomy, and 0 for `Ok`. -/
def Obligations.ErrorCodesFollowTheTaxonomy : Prop :=
  OpError.code .busError = 1 ∧ OpError.code .shortRead = 2 ∧ OpError.code .dataIntegrity = 3 ∧
  OpError.code .configuration = 4 ∧ (∀ v, OpResult.code (.ok v) = 0) ∧ ∀ e f : OpError, e.code = f.code → e = f

/-- 60_exceptions.md section 1 (its table of results, derived there), 30_encoding.md R65: which operation can end in
which result, and no other. -/
def Obligations.EachOperationEndsInItsOwnResults : Prop :=
  ∀ (i : Instr) (s t : State), exec i s = .next t → t.st = .idle →
    ∃ r, t.results = s.results ++ [r] ∧
      match i with
      | .crcCompute _ => ∃ b, r = .ok (.byte b)
      | .crcValidate _ _ => ∃ b, r = .ok (.bool b)
      | .asmDecode _ _ _ _ => ∃ x, r = .ok (.reading x)
      | .rpWriteCommand _ => r = .ok .unit ∨ r = .err .busError
      | .rpReadFrame =>
        (∃ bs, r = .ok (.frame bs) ∧ bs.length = if s.cfg.crcEn then 5 else 4) ∨ r = .err .busError ∨
          r = .err .shortRead
      | .rpReadRaw =>
        (∃ x, r = .ok (.reading x)) ∨ r = .err .busError ∨ r = .err .shortRead ∨
          (r = .err .dataIntegrity ∧ s.cfg.crcEn = true)
      | .reserved110 => False
      | .reserved111 => False

/-! ### Frames -/

/-- 10_state.md R21, R26; 40_crc.md R83, R84; 41_assembler.md R103: the frame of the pure operations. Whenever one of
them goes on, `CFG`, `ST`, `PH`, `BUF` (every cell), `CNT`, both ports and the event history are unchanged; `CRC` is
unchanged by `ASM.DECODE` and loses its value under the other two; one result is delivered. -/
def Obligations.PureOperationsFrame : Prop :=
  ∀ (i : Instr) (s t : State),
    (∃ frame, i = .crcCompute frame) ∨ (∃ frame k, i = .crcValidate frame k) ∨
      (∃ d0 d1 d2 d3, i = .asmDecode d0 d1 d2 d3) →
    exec i s = .next t →
    t.cfg = s.cfg ∧ t.st = s.st ∧ t.ph = s.ph ∧ (∀ a, Memory.read t.buf a = Memory.read s.buf a) ∧ t.buf = s.buf ∧
    t.cnt = s.cnt ∧ t.inProgress = s.inProgress ∧ t.call = s.call ∧ t.requests = s.requests ∧
    t.answers = s.answers ∧ t.history = s.history ∧
    ((∃ d0 d1 d2 d3, i = .asmDecode d0 d1 d2 d3) → t.crc = s.crc) ∧
    ((∀ d0 d1 d2 d3, i ≠ .asmDecode d0 d1 d2 d3) → t.crc = none) ∧
    ∃ v, t.results = s.results ++ [.ok v]

/-- 42_register_protocol.md R110, R113, R116; 20_memory.md R51: the frame of the bus operations. Whenever one of them
goes on, `CFG` and the caller's requests are unchanged; the answers are drawn from the front, one for each event; the
history only grows, by the events of that operation, each of this instance (R51), the read of `RP.READ_RAW` directly
after its write was answered `Ok`. Ended, it has delivered one result and no transient register holds a value; waiting,
it has delivered none, and `CRC`, `CNT` and every cell of `BUF` are as before. -/
def Obligations.BusOperationsFrame : Prop :=
  ∀ (i : Instr) (s t : State),
    (∃ bytes, i = .rpWriteCommand bytes) ∨ i = .rpReadFrame ∨ i = .rpReadRaw →
    exec i s = .next t →
    t.cfg = s.cfg ∧ t.requests = s.requests ∧
    (∃ evs, t.history = s.history ++ evs ∧ (∀ e ∈ evs, e.ofInstance s.cfg) ∧
      (∃ drawn, s.answers = drawn ++ t.answers ∧ drawn.length = evs.length) ∧
      (∀ bytes, i = .rpWriteCommand bytes → evs = [] ∨ ∃ a, evs = [.write s.cfg.i2cAddress bytes a]) ∧
      (i = .rpReadFrame → evs = [] ∨ ∃ a, evs = [.read s.cfg.i2cAddress (frameBytes s.cfg.crcEn) a]) ∧
      (i = .rpReadRaw → evs = [] ∨ (∃ a, evs = [.write s.cfg.i2cAddress Config.cmdSelect a]) ∨
        ∃ a, evs = [.write s.cfg.i2cAddress Config.cmdSelect (.ok []),
          .read s.cfg.i2cAddress (frameBytes s.cfg.crcEn) a])) ∧
    ((t.st = .idle ∧ (∃ r, t.results = s.results ++ [r]) ∧ t.ph = none ∧ t.crc = none ∧ t.cnt = none ∧
        t.inProgress = none ∧ t.call = none ∧ ∀ a, Memory.read t.buf a = none) ∨
     (t.st = .transacting ∧ t.results = s.results ∧ t.crc = s.crc ∧ t.cnt = s.cnt ∧ t.answers = [] ∧
        t.inProgress ≠ none ∧ t.call ≠ none ∧ ∀ a, Memory.read t.buf a = Memory.read s.buf a))

/-! ### Whole-machine rules -/

/-- 10_state.md R25: no operation writes any field of `CFG`; a step of the machine does not either, in any state. -/
def Obligations.ConfigurationIsImmutable : Prop :=
  (∀ (i : Instr) (s t : State), exec i s = .next t → t.cfg = s.cfg) ∧
  ∀ s t : State, step s = .next t → t.cfg = s.cfg

/-- 10_state.md R24, 41_assembler.md R106: `CFG.pressure_range` and `CFG.offset` are read by nothing in this block. Two
runs that differ only in them make the same step, with the same results, events and calls. -/
def Obligations.PassThroughFieldsAreNeverRead : Prop :=
  ∀ (s : State) (range : PressureRange) (offset : Int),
    let swap := fun u : State => { u with cfg := { u.cfg with pressureRange := range, offset := offset } }
    step (swap s) =
      match step s with
      | .next t => .next (swap t)
      | .fault f => .fault f
      | .refused why => .refused why

/-- 10_state.md R28, R34, 20_memory.md R55: no operation reads a result or an event of an earlier one. Two machines that
differ only in what was delivered and recorded before make the same step, and deliver and record the same. -/
def Obligations.EarlierResultsAreNeverRead : Prop :=
  ∀ (s : State) (oldEvents : List BusEvent) (oldResults : List OpResult),
    let after := fun u : State =>
      { u with history := oldEvents ++ u.history, results := oldResults ++ u.results }
    step (after s) =
      match step s with
      | .next t => .next (after t)
      | .fault f => .fault f
      | .refused why => .refused why

/-- 10_state.md R21, R22, R26, R27, R33: the invariant holds after every successful construction, the reset state
among them. -/
def Obligations.FreshInstanceMeetsInvariant : Prop :=
  State.reset.Inv ∧ State.reset.HistoryInv ∧ ∀ s : State, FreshInstance s → s.Inv ∧ s.HistoryInv

/-- 10_state.md R21, R22, R26, R27, 60_exceptions.md R139: every step keeps the invariant: at Idle the transient
registers hold no value and no call is outstanding; while Transacting the block waits for the one call of the operation
in progress. -/
def Obligations.StepKeepsTransactionInvariant : Prop :=
  ∀ s t : State, s.Inv → step s = .next t → t.Inv

/-- 20_memory.md section 8, what the spec derives of every history: every step keeps every event of the history one of
this instance: its address is `CFG.i2c_address`, a read asks for 4 bytes with CRC disabled and for 5 with CRC enabled,
and no answer is longer than asked for. -/
def Obligations.StepKeepsEventHistoryOfInstance : Prop :=
  ∀ s t : State, s.HistoryInv → step s = .next t → t.HistoryInv

/-- 20_memory.md R40 gives the frame buffer its five cells; its canonical form, a list of cells with addresses strictly
rising and below 5, is the model's choice (log entry 16). Every step keeps that form, from every state with it. -/
def Obligations.StepKeepsBufferCanonical : Prop :=
  ∀ s t : State, Memory.wf s.buf = true → step s = .next t → Memory.wf t.buf = true

/-- 10_state.md R33: no rule reads a transient register before writing it. From a state with the invariant no step and
no operation is a fault. -/
def Obligations.NoTransientIsReadBeforeItIsWritten : Prop :=
  ∀ s : State, s.Inv → (∀ f, step s ≠ .fault f) ∧ ∀ (i : Instr) (f : Fault), exec i s ≠ .fault f

/-- 10_state.md R33: any read of a transient register that holds no value is a fault, for each of `PH`, `CRC`, `CNT` and
the cells of `BUF`; 20_memory.md R40: there is no cell beyond the fifth. A step that goes on with `RP.READ_RAW` reads
`PH`. The names of the faults are the model's (log entries 5 and 16). -/
def Obligations.ReadingAnEmptyRegisterIsAFault : Prop :=
  (∀ (k : Phase → Machine.Result) (s : State), s.ph = none → readPh k s = .fault (.noValue .ph)) ∧
  (∀ (k : Byte → Machine.Result) (s : State), s.crc = none → readCrc k s = .fault (.noValue .crc)) ∧
  (∀ (k : BitVec 3 → Machine.Result) (s : State), s.cnt = none → readCnt k s = .fault (.noValue .cnt)) ∧
  (∀ (i : Nat) (k : Byte → Machine.Result) (s : State), i < 5 → Memory.read s.buf i = none →
    readBuf i k s = .fault (.noValue (.buf i))) ∧
  (∀ (i : Nat) (k : Byte → Machine.Result) (s : State), 5 ≤ i → readBuf i k s = .fault (.noSuchCell i)) ∧
  ∀ s : State, s.st = .transacting → s.inProgress = some .readRaw → s.ph = none → step s = .fault (.noValue .ph)

/-- 10_state.md R23, R27, R22 with 42_register_protocol.md R113: after an answer of at most five bytes `CNT` is their
number, cell `i` below `CNT` holds byte `i`, and the other cells hold no value. -/
def Obligations.FilledBufferHoldsTheAnswer : Prop :=
  ∀ (bs : List Byte) (k : State → Machine.Result) (s : State), bs.length ≤ 5 →
    ∃ t, fillBuf bs k s = k t ∧ t.cnt = some (BitVec.ofNat 3 bs.length) ∧
      (BitVec.ofNat 3 bs.length).toNat = bs.length ∧
      (∀ i, Memory.read t.buf i = bs[i]?) ∧ Memory.wf t.buf = true ∧
      t.cfg = s.cfg ∧ t.st = s.st ∧ t.ph = s.ph ∧ t.crc = s.crc ∧ t.inProgress = s.inProgress ∧
      t.call = s.call ∧ t.requests = s.requests ∧ t.answers = s.answers ∧ t.history = s.history ∧ t.results = s.results

/-! ### Runs of the block among its surroundings -/

/-- 10_state.md R26, R27, R33, 20_memory.md R49, R50, with what 20_memory.md section 8 derives of every history:
whatever the caller, the transport and other devices do between its steps, the block keeps its invariants along every
run. The moves of a run are the model's form of 70_reset_and_hazards.md R166 (log entry 23). -/
def Obligations.RunsKeepTheInvariants : Prop :=
  ∀ (moves : List Move) (s t : State), s.Inv → s.HistoryInv → runMoves moves s = some t → t.Inv ∧ t.HistoryInv

/-- 70_reset_and_hazards.md R161, under the premises `FreshInstance` and `TransportAnswers` of R167: a run whose
transport calls are all answered ends at Idle, with nothing in progress and no transient register holding a value. The
moves of a run are the model's form (log entry 23). -/
def Obligations.AnsweredRunEndsAtIdle : Prop :=
  ∀ (moves : List Move) (s t : State), FreshInstance s → TransportAnswers moves s → runMoves moves s = some t →
    t.st = .idle ∧ t.IdleClean

/-- 70_reset_and_hazards.md R152, R159, 10_state.md R29: a reset while Transacting is no move, and a request presented
while Transacting is refused and never queued, so it is no move either. A run that can be made therefore meets the
premises `NoResetInFlight` and `OneCallerAtATime` of R167. It says nothing of the other moves. The moves of a run are the
model's form (log entry 23). -/
def Obligations.NoConstructionOrRequestWhileTransacting : Prop :=
  (∀ (s : State) (p : ConstructionParams) (r : Request), s.st = .transacting →
    (Move.construct p).apply s = none ∧ (Move.present r).apply s = none) ∧
  ∀ (moves : List Move) (s t : State), runMoves moves s = some t →
    NoResetInFlight moves s ∧ OneCallerAtATime moves s
end

