-- ==== Sys2Proof/Laws/Memory.lean ====
section
/-! SUPPORT. The laws of the frame buffer: read after write, and the canonical form is kept by every operation. -/

namespace Sys2Proof.Machine

theorem Memory.read_write_same (m : Memory) (i : Nat) (v : Byte) : Memory.read (Memory.write m i v) i = some v := by
  induction m with
  | nil => simp [Memory.write, Memory.read]
  | cons c m ih =>
    obtain ⟨a, b⟩ := c
    simp only [Memory.write]
    split_ifs with h1 h2
    · simp [Memory.read]
    · simp [Memory.read]
    · simp [Memory.read, h2, ih]

theorem Memory.read_write_other (m : Memory) (i j : Nat) (v : Byte) (h : j ≠ i) :
    Memory.read (Memory.write m i v) j = Memory.read m j := by
  induction m with
  | nil => simp [Memory.write, Memory.read, h]
  | cons c m ih =>
    obtain ⟨a, b⟩ := c
    simp only [Memory.write]
    split_ifs with h1 h2
    · simp [Memory.read, h]
    · subst h2; simp [Memory.read, h]
    · simp only [Memory.read, ih]

theorem Memory.risingFrom_write (m : Memory) (lo i : Nat) (v : Byte) (hlo : lo ≤ i) (hi : i < bufCells)
    (h : Memory.risingFrom lo m = true) : Memory.risingFrom lo (Memory.write m i v) = true := by
  induction m generalizing lo with
  | nil => simp [Memory.write, Memory.risingFrom, hlo, hi]
  | cons c m ih =>
    obtain ⟨a, b⟩ := c
    simp only [Memory.risingFrom, Bool.and_eq_true, decide_eq_true_eq] at h
    simp only [Memory.write]
    split_ifs with h1 h2
    · simp only [Memory.risingFrom, Bool.and_eq_true, decide_eq_true_eq]
      exact ⟨⟨hlo, hi⟩, ⟨⟨h1, h.1.2⟩, h.2⟩⟩
    · subst h2
      simp only [Memory.risingFrom, Bool.and_eq_true, decide_eq_true_eq]
      exact h
    · simp only [Memory.risingFrom, Bool.and_eq_true, decide_eq_true_eq]
      exact ⟨h.1, ih (a + 1) (by omega) h.2⟩

theorem Memory.wf_nil : Memory.wf [] = true := rfl

theorem Memory.wf_write (m : Memory) (i : Nat) (v : Byte) (hi : i < bufCells) (h : Memory.wf m = true) :
    Memory.wf (Memory.write m i v) = true :=
  Memory.risingFrom_write m 0 i v (Nat.zero_le i) hi h

theorem Memory.wf_writeAll (m : Memory) (i : Nat) (bs : List Byte) (hi : i + bs.length ≤ bufCells)
    (h : Memory.wf m = true) : Memory.wf (Memory.writeAll m i bs) = true := by
  induction bs generalizing m i with
  | nil => exact h
  | cons b bs ih =>
    simp only [List.length_cons] at hi
    exact ih _ _ (by omega) (Memory.wf_write m i b (by omega) h)

theorem Memory.read_writeAll_below (m : Memory) (i j : Nat) (bs : List Byte) (h : j < i) :
    Memory.read (Memory.writeAll m i bs) j = Memory.read m j := by
  induction bs generalizing m i with
  | nil => rfl
  | cons b bs ih => rw [Memory.writeAll, ih _ _ (by omega), Memory.read_write_other _ _ _ _ (by omega)]

/-- After consecutive writes each cell written holds its byte, and every other cell what it held. -/
theorem Memory.read_writeAll (m : Memory) (i k : Nat) (bs : List Byte) :
    Memory.read (Memory.writeAll m i bs) (i + k) = (bs[k]?).or (Memory.read m (i + k)) := by
  induction bs generalizing m i k with
  | nil => simp [Memory.writeAll]
  | cons b bs ih =>
    rw [Memory.writeAll]
    cases k with
    | zero => simp [Memory.read_writeAll_below, Memory.read_write_same]
    | succ k =>
      have := ih (Memory.write m i b) (i + 1) k
      rw [Nat.add_right_comm, Nat.add_assoc] at this
      rw [this, Memory.read_write_other _ _ _ _ (by omega)]
      simp

end Sys2Proof.Machine
end

