-- ==== Sys2Proof/Laws/State.lean ====
section
/-! SUPPORT. One lemma per field per named update of State: later proofs rewrite with these and never unfold a record
update. -/

namespace Sys2Proof.Machine

variable (s : State)

@[simp] theorem State.begin_cfg (op : BusOperation) : (s.begin op).cfg = s.cfg := rfl
@[simp] theorem State.begin_st (op : BusOperation) : (s.begin op).st = .transacting := rfl
@[simp] theorem State.begin_ph (op : BusOperation) : (s.begin op).ph = s.ph := rfl
@[simp] theorem State.begin_crc (op : BusOperation) : (s.begin op).crc = s.crc := rfl
@[simp] theorem State.begin_buf (op : BusOperation) : (s.begin op).buf = s.buf := rfl
@[simp] theorem State.begin_cnt (op : BusOperation) : (s.begin op).cnt = s.cnt := rfl
@[simp] theorem State.begin_call (op : BusOperation) : (s.begin op).call = s.call := rfl
@[simp] theorem State.begin_inProgress (op : BusOperation) : (s.begin op).inProgress = some op := rfl
@[simp] theorem State.begin_requests (op : BusOperation) : (s.begin op).requests = s.requests := rfl
@[simp] theorem State.begin_answers (op : BusOperation) : (s.begin op).answers = s.answers := rfl
@[simp] theorem State.begin_history (op : BusOperation) : (s.begin op).history = s.history := rfl
@[simp] theorem State.begin_results (op : BusOperation) : (s.begin op).results = s.results := rfl

@[simp] theorem State.dropTransients_cfg : s.dropTransients.cfg = s.cfg := rfl
@[simp] theorem State.dropTransients_st : s.dropTransients.st = s.st := rfl
@[simp] theorem State.dropTransients_ph : s.dropTransients.ph = none := rfl
@[simp] theorem State.dropTransients_crc : s.dropTransients.crc = none := rfl
@[simp] theorem State.dropTransients_buf : s.dropTransients.buf = [] := rfl
@[simp] theorem State.dropTransients_cnt : s.dropTransients.cnt = none := rfl
@[simp] theorem State.dropTransients_call : s.dropTransients.call = s.call := rfl
@[simp] theorem State.dropTransients_inProgress : s.dropTransients.inProgress = s.inProgress := rfl
@[simp] theorem State.dropTransients_requests : s.dropTransients.requests = s.requests := rfl
@[simp] theorem State.dropTransients_answers : s.dropTransients.answers = s.answers := rfl
@[simp] theorem State.dropTransients_history : s.dropTransients.history = s.history := rfl
@[simp] theorem State.dropTransients_results : s.dropTransients.results = s.results := rfl

@[simp] theorem State.deliver_cfg (r : OpResult) : (s.deliver r).cfg = s.cfg := rfl
@[simp] theorem State.deliver_st (r : OpResult) : (s.deliver r).st = s.st := rfl
@[simp] theorem State.deliver_ph (r : OpResult) : (s.deliver r).ph = s.ph := rfl
@[simp] theorem State.deliver_crc (r : OpResult) : (s.deliver r).crc = s.crc := rfl
@[simp] theorem State.deliver_buf (r : OpResult) : (s.deliver r).buf = s.buf := rfl
@[simp] theorem State.deliver_cnt (r : OpResult) : (s.deliver r).cnt = s.cnt := rfl
@[simp] theorem State.deliver_call (r : OpResult) : (s.deliver r).call = s.call := rfl
@[simp] theorem State.deliver_inProgress (r : OpResult) : (s.deliver r).inProgress = s.inProgress := rfl
@[simp] theorem State.deliver_requests (r : OpResult) : (s.deliver r).requests = s.requests := rfl
@[simp] theorem State.deliver_answers (r : OpResult) : (s.deliver r).answers = s.answers := rfl
@[simp] theorem State.deliver_history (r : OpResult) : (s.deliver r).history = s.history := rfl
@[simp] theorem State.deliver_results (r : OpResult) : (s.deliver r).results = s.results ++ [r] := rfl

@[simp] theorem State.answered_cfg (c : BusCall) (a : Answer) (rest : List Answer) : (s.answered c a rest).cfg = s.cfg := rfl
@[simp] theorem State.answered_st (c : BusCall) (a : Answer) (rest : List Answer) : (s.answered c a rest).st = s.st := rfl
@[simp] theorem State.answered_ph (c : BusCall) (a : Answer) (rest : List Answer) : (s.answered c a rest).ph = s.ph := rfl
@[simp] theorem State.answered_crc (c : BusCall) (a : Answer) (rest : List Answer) : (s.answered c a rest).crc = s.crc := rfl
@[simp] theorem State.answered_buf (c : BusCall) (a : Answer) (rest : List Answer) : (s.answered c a rest).buf = s.buf := rfl
@[simp] theorem State.answered_cnt (c : BusCall) (a : Answer) (rest : List Answer) : (s.answered c a rest).cnt = s.cnt := rfl
@[simp] theorem State.answered_call (c : BusCall) (a : Answer) (rest : List Answer) : (s.answered c a rest).call = none := rfl
@[simp] theorem State.answered_inProgress (c : BusCall) (a : Answer) (rest : List Answer) : (s.answered c a rest).inProgress = s.inProgress := rfl
@[simp] theorem State.answered_requests (c : BusCall) (a : Answer) (rest : List Answer) : (s.answered c a rest).requests = s.requests := rfl
@[simp] theorem State.answered_answers (c : BusCall) (a : Answer) (rest : List Answer) : (s.answered c a rest).answers = rest := rfl
@[simp] theorem State.answered_history (c : BusCall) (a : Answer) (rest : List Answer) : (s.answered c a rest).history = s.history ++ [c.event a] := rfl
@[simp] theorem State.answered_results (c : BusCall) (a : Answer) (rest : List Answer) : (s.answered c a rest).results = s.results := rfl

@[simp] theorem State.submit_cfg (rs : List Request) : (s.submit rs).cfg = s.cfg := rfl
@[simp] theorem State.submit_st (rs : List Request) : (s.submit rs).st = s.st := rfl
@[simp] theorem State.submit_ph (rs : List Request) : (s.submit rs).ph = s.ph := rfl
@[simp] theorem State.submit_crc (rs : List Request) : (s.submit rs).crc = s.crc := rfl
@[simp] theorem State.submit_buf (rs : List Request) : (s.submit rs).buf = s.buf := rfl
@[simp] theorem State.submit_cnt (rs : List Request) : (s.submit rs).cnt = s.cnt := rfl
@[simp] theorem State.submit_call (rs : List Request) : (s.submit rs).call = s.call := rfl
@[simp] theorem State.submit_inProgress (rs : List Request) : (s.submit rs).inProgress = s.inProgress := rfl
@[simp] theorem State.submit_requests (rs : List Request) : (s.submit rs).requests = s.requests ++ rs := rfl
@[simp] theorem State.submit_answers (rs : List Request) : (s.submit rs).answers = s.answers := rfl
@[simp] theorem State.submit_history (rs : List Request) : (s.submit rs).history = s.history := rfl
@[simp] theorem State.submit_results (rs : List Request) : (s.submit rs).results = s.results := rfl

@[simp] theorem State.withdraw_cfg : s.withdraw.cfg = s.cfg := rfl
@[simp] theorem State.withdraw_st : s.withdraw.st = s.st := rfl
@[simp] theorem State.withdraw_ph : s.withdraw.ph = s.ph := rfl
@[simp] theorem State.withdraw_crc : s.withdraw.crc = s.crc := rfl
@[simp] theorem State.withdraw_buf : s.withdraw.buf = s.buf := rfl
@[simp] theorem State.withdraw_cnt : s.withdraw.cnt = s.cnt := rfl
@[simp] theorem State.withdraw_call : s.withdraw.call = s.call := rfl
@[simp] theorem State.withdraw_inProgress : s.withdraw.inProgress = s.inProgress := rfl
@[simp] theorem State.withdraw_requests : s.withdraw.requests = s.requests.tail := rfl
@[simp] theorem State.withdraw_answers : s.withdraw.answers = s.answers := rfl
@[simp] theorem State.withdraw_history : s.withdraw.history = s.history := rfl
@[simp] theorem State.withdraw_results : s.withdraw.results = s.results := rfl

@[simp] theorem State.supply_cfg (as : List Answer) : (s.supply as).cfg = s.cfg := rfl
@[simp] theorem State.supply_st (as : List Answer) : (s.supply as).st = s.st := rfl
@[simp] theorem State.supply_ph (as : List Answer) : (s.supply as).ph = s.ph := rfl
@[simp] theorem State.supply_crc (as : List Answer) : (s.supply as).crc = s.crc := rfl
@[simp] theorem State.supply_buf (as : List Answer) : (s.supply as).buf = s.buf := rfl
@[simp] theorem State.supply_cnt (as : List Answer) : (s.supply as).cnt = s.cnt := rfl
@[simp] theorem State.supply_call (as : List Answer) : (s.supply as).call = s.call := rfl
@[simp] theorem State.supply_inProgress (as : List Answer) : (s.supply as).inProgress = s.inProgress := rfl
@[simp] theorem State.supply_requests (as : List Answer) : (s.supply as).requests = s.requests := rfl
@[simp] theorem State.supply_answers (as : List Answer) : (s.supply as).answers = s.answers ++ as := rfl
@[simp] theorem State.supply_history (as : List Answer) : (s.supply as).history = s.history := rfl
@[simp] theorem State.supply_results (as : List Answer) : (s.supply as).results = s.results := rfl

@[simp] theorem State.ended_cfg (r : OpResult) (rest : List Answer) (evs : List BusEvent) : (s.ended r rest evs).cfg = s.cfg := rfl
@[simp] theorem State.ended_st (r : OpResult) (rest : List Answer) (evs : List BusEvent) : (s.ended r rest evs).st = .idle := rfl
@[simp] theorem State.ended_ph (r : OpResult) (rest : List Answer) (evs : List BusEvent) : (s.ended r rest evs).ph = none := rfl
@[simp] theorem State.ended_crc (r : OpResult) (rest : List Answer) (evs : List BusEvent) : (s.ended r rest evs).crc = none := rfl
@[simp] theorem State.ended_buf (r : OpResult) (rest : List Answer) (evs : List BusEvent) : (s.ended r rest evs).buf = [] := rfl
@[simp] theorem State.ended_cnt (r : OpResult) (rest : List Answer) (evs : List BusEvent) : (s.ended r rest evs).cnt = none := rfl
@[simp] theorem State.ended_call (r : OpResult) (rest : List Answer) (evs : List BusEvent) : (s.ended r rest evs).call = none := rfl
@[simp] theorem State.ended_inProgress (r : OpResult) (rest : List Answer) (evs : List BusEvent) : (s.ended r rest evs).inProgress = none := rfl
@[simp] theorem State.ended_requests (r : OpResult) (rest : List Answer) (evs : List BusEvent) : (s.ended r rest evs).requests = s.requests := rfl
@[simp] theorem State.ended_answers (r : OpResult) (rest : List Answer) (evs : List BusEvent) : (s.ended r rest evs).answers = rest := rfl
@[simp] theorem State.ended_history (r : OpResult) (rest : List Answer) (evs : List BusEvent) : (s.ended r rest evs).history = s.history ++ evs := rfl
@[simp] theorem State.ended_results (r : OpResult) (rest : List Answer) (evs : List BusEvent) : (s.ended r rest evs).results = s.results ++ [r] := rfl

@[simp] theorem State.setPh_cfg (p : Phase) : (s.setPh p).cfg = s.cfg := rfl
@[simp] theorem State.setPh_st (p : Phase) : (s.setPh p).st = s.st := rfl
@[simp] theorem State.setPh_ph (p : Phase) : (s.setPh p).ph = some p := rfl
@[simp] theorem State.setPh_crc (p : Phase) : (s.setPh p).crc = s.crc := rfl
@[simp] theorem State.setPh_buf (p : Phase) : (s.setPh p).buf = s.buf := rfl
@[simp] theorem State.setPh_cnt (p : Phase) : (s.setPh p).cnt = s.cnt := rfl
@[simp] theorem State.setPh_call (p : Phase) : (s.setPh p).call = s.call := rfl
@[simp] theorem State.setPh_inProgress (p : Phase) : (s.setPh p).inProgress = s.inProgress := rfl
@[simp] theorem State.setPh_requests (p : Phase) : (s.setPh p).requests = s.requests := rfl
@[simp] theorem State.setPh_answers (p : Phase) : (s.setPh p).answers = s.answers := rfl
@[simp] theorem State.setPh_history (p : Phase) : (s.setPh p).history = s.history := rfl
@[simp] theorem State.setPh_results (p : Phase) : (s.setPh p).results = s.results := rfl

@[simp] theorem State.filled_cfg (bs : List Byte) : (s.filled bs).cfg = s.cfg := rfl
@[simp] theorem State.filled_st (bs : List Byte) : (s.filled bs).st = s.st := rfl
@[simp] theorem State.filled_ph (bs : List Byte) : (s.filled bs).ph = s.ph := rfl
@[simp] theorem State.filled_crc (bs : List Byte) : (s.filled bs).crc = s.crc := rfl
@[simp] theorem State.filled_buf (bs : List Byte) : (s.filled bs).buf = Memory.writeAll [] 0 bs := rfl
@[simp] theorem State.filled_cnt (bs : List Byte) : (s.filled bs).cnt = some (BitVec.ofNat 3 bs.length) := rfl
@[simp] theorem State.filled_call (bs : List Byte) : (s.filled bs).call = s.call := rfl
@[simp] theorem State.filled_inProgress (bs : List Byte) : (s.filled bs).inProgress = s.inProgress := rfl
@[simp] theorem State.filled_requests (bs : List Byte) : (s.filled bs).requests = s.requests := rfl
@[simp] theorem State.filled_answers (bs : List Byte) : (s.filled bs).answers = s.answers := rfl
@[simp] theorem State.filled_history (bs : List Byte) : (s.filled bs).history = s.history := rfl
@[simp] theorem State.filled_results (bs : List Byte) : (s.filled bs).results = s.results := rfl

end Sys2Proof.Machine
end

