-- ==== Sys2Proof/Laws/Ops.lean ====
section
/-! SUPPORT. One lemma for each shared operation that says once what it does; proofs about operations cite these. -/

namespace Sys2Proof.Machine

theorem whenIdle_idle (k : State → Result) (s : State) (h : s.st = .idle) : whenIdle k s = k s := by
  simp [whenIdle, h]

theorem whenIdle_transacting (k : State → Result) (s : State) (h : s.st = .transacting) :
    whenIdle k s = .refused .transacting := by
  simp [whenIdle, h]

/-- An admitted operation that answers a next state ran from Idle. -/
theorem whenIdle_next {k : State → Result} {s t : State} (h : whenIdle k s = .next t) : s.st = .idle ∧ k s = .next t := by
  cases hs : s.st with
  | idle => exact ⟨rfl, whenIdle_idle k s hs ▸ h⟩
  | transacting => rw [whenIdle_transacting k s hs] at h; cases h

theorem whenIdle_fault {k : State → Result} {s : State} {f : Fault} (h : whenIdle k s = .fault f) :
    s.st = .idle ∧ k s = .fault f := by
  cases hs : s.st with
  | idle => exact ⟨rfl, whenIdle_idle k s hs ▸ h⟩
  | transacting => rw [whenIdle_transacting k s hs] at h; cases h

theorem await_silent (c : BusCall) (k : Answer → State → Result) (s : State) (h : s.answers = []) :
    await c k s = .next { s with call := some c } := by
  simp [await, h]

theorem await_answered (c : BusCall) (k : Answer → State → Result) (s : State) (a : Answer) (rest : List Answer)
    (h : s.answers = a :: rest) (ha : c.admits a = true) : await c k s = k a (s.answered c a rest) := by
  simp [await, h, ha]

theorem await_inadmissible (c : BusCall) (k : Answer → State → Result) (s : State) (a : Answer) (rest : List Answer)
    (h : s.answers = a :: rest) (ha : c.admits a = false) : await c k s = .refused .inadmissibleAnswer := by
  simp [await, h, ha]

/-- A call that leads to a next state either waits or went on with an answer the port can carry. -/
theorem await_next {c : BusCall} {k : Answer → State → Result} {s t : State} (h : await c k s = .next t) :
    (s.answers = [] ∧ t = { s with call := some c }) ∨
    (∃ a rest, s.answers = a :: rest ∧ c.admits a = true ∧ k a (s.answered c a rest) = .next t) := by
  rcases hs : s.answers with _ | ⟨a, rest⟩
  · rw [await_silent c k s hs] at h; exact .inl ⟨rfl, by cases h; rw [← hs]⟩
  · cases ha : c.admits a with
    | true => rw [await_answered c k s a rest hs ha] at h; exact .inr ⟨a, rest, rfl, ha, h⟩
    | false => rw [await_inadmissible c k s a rest hs ha] at h; cases h

theorem await_fault {c : BusCall} {k : Answer → State → Result} {s : State} {f : Fault} (h : await c k s = .fault f) :
    ∃ a rest, s.answers = a :: rest ∧ c.admits a = true ∧ k a (s.answered c a rest) = .fault f := by
  cases hs : s.answers with
  | nil => rw [await_silent c k s hs] at h; cases h
  | cons a rest =>
    cases ha : c.admits a with
    | true => rw [await_answered c k s a rest hs ha] at h; exact ⟨a, rest, rfl, ha, h⟩
    | false => rw [await_inadmissible c k s a rest hs ha] at h; cases h

theorem finish_eq (r : OpResult) (s : State) : finish r s = .next (s.ended r s.answers []) := by
  simp [finish, State.ended, State.dropTransients]

theorem raise_eq (e : OpError) (s : State) : raise e s = .next (s.ended (.err e) s.answers []) := finish_eq _ s

/-- Ending after an answer was drawn is ending the operation with that answer's event recorded. -/
theorem ended_answered (s : State) (c : BusCall) (a : Answer) (rest rest' : List Answer) (r : OpResult)
    (evs : List BusEvent) : (s.answered c a rest).ended r rest' evs = s.ended r rest' (c.event a :: evs) := by
  simp [State.ended, State.answered]

theorem readBuf_ok (i : Nat) (k : Byte → Result) (s : State) (b : Byte) (hi : i < bufCells)
    (h : Memory.read s.buf i = some b) : readBuf i k s = k b := by
  simp [readBuf, hi, h]

theorem readPh_ok (k : Phase → Result) (s : State) (p : Phase) (h : s.ph = some p) : readPh k s = k p := by
  simp [readPh, h]

theorem readPh_none (k : Phase → Result) (s : State) (h : s.ph = none) : readPh k s = .fault (.noValue .ph) := by
  simp [readPh, h]

theorem readCrc_ok (k : Byte → Result) (s : State) (c : Byte) (h : s.crc = some c) : readCrc k s = k c := by
  simp [readCrc, h]

theorem readCnt_ok (k : BitVec 3 → Result) (s : State) (n : BitVec 3) (h : s.cnt = some n) : readCnt k s = k n := by
  simp [readCnt, h]

theorem fillBuf_ok (bs : List Byte) (k : State → Result) (s : State) (h : bs.length ≤ bufCells) :
    fillBuf bs k s = k (s.filled bs) := by
  simp [fillBuf, h]

/-- Reading the cells of consecutive indices reads their bytes in order. -/
theorem readBufs_range' (bs : List Byte) (lo : Nat) (k : List Byte → Result) (s : State)
    (hlo : lo + bs.length ≤ bufCells) (h : ∀ j (hj : j < bs.length), Memory.read s.buf (lo + j) = some bs[j]) :
    readBufs (List.range' lo bs.length) k s = k bs := by
  induction bs generalizing lo k with
  | nil => rfl
  | cons b bs ih =>
    simp only [List.length_cons] at hlo
    rw [List.length_cons, List.range'_succ, readBufs,
      readBuf_ok lo _ s b (by omega) (h 0 (Nat.succ_pos _))]
    refine ih (lo + 1) _ (by omega) fun j hj => ?_
    have := h (j + 1) (by simpa using hj)
    simpa [Nat.add_assoc, Nat.add_comm 1 j] using this

/-- The first bytes of a filled buffer, read back. -/
theorem readBufs_filled (bs : List Byte) (n : Nat) (k : List Byte → Result) (s : State) (hn : n ≤ bs.length)
    (hb : bs.length ≤ bufCells) (h : s.buf = Memory.writeAll [] 0 bs) :
    readBufs (List.range n) k s = k (bs.take n) := by
  have hl : (bs.take n).length = n := by simp [hn]
  have := readBufs_range' (bs.take n) 0 k s (by omega) fun j hj => by
    have hr := Memory.read_writeAll [] 0 j bs
    rw [h, hr]
    simp only [List.getElem_take]
    simp [Memory.read, List.getElem?_eq_getElem (show j < bs.length by omega)]
  rwa [hl, ← List.range_eq_range'] at this

/-- A cell of a filled buffer, read back. -/
theorem readBuf_filled (bs : List Byte) (i : Nat) (k : Byte → Result) (s : State) (hi : i < bs.length)
    (hb : bs.length ≤ bufCells) (h : s.buf = Memory.writeAll [] 0 bs) : readBuf i k s = k bs[i] := by
  refine readBuf_ok i k s bs[i] (by omega) ?_
  have := Memory.read_writeAll [] 0 i bs
  rw [Nat.zero_add] at this
  rw [h, this]
  simp [Memory.read, List.getElem?_eq_getElem hi]

end Sys2Proof.Machine
end

