-- ==== Sys2Proof/Laws/Crc.lean ====
section
/-! SUPPORT. The checksum: how it grows with its frame, and that the register loop computes it. -/

namespace Sys2Proof.Machine

open Sys2Proof.Config (CrcParams)

theorem crc8_nil (p : CrcParams) : crc8 p [] = p.init ^^^ p.xorOut := rfl

theorem crcBits_add (p : CrcParams) (m n : Nat) (c : Byte) : crcBits p (m + n) c = crcBits p n (crcBits p m c) := by
  induction m generalizing c with
  | zero => simp [crcBits]
  | succ m ih => rw [Nat.succ_add]; exact ih (crcBit p c)

/-- The register loop leaves `crc8(frame)` in `CRC` and touches nothing else. -/
theorem State.crcRun_eq (frame : List Byte) (s : State) :
    s.crcRun frame = { s with crc := some (crc8 Config.crc frame) } := by
  have loop : ∀ (f : List Byte) (t : State) (c : Byte), t.crc = some c →
      f.foldl State.crcAbsorb t = { t with crc := some (f.foldl (crcByte Config.crc) c) } := by
    intro f
    induction f with
    | nil => intro t c h; rw [List.foldl_nil, List.foldl_nil, ← h]
    | cons b f ih =>
      intro t c h
      rw [List.foldl_cons, ih (t.crcAbsorb b) (crcByte Config.crc c b) (by simp [State.crcAbsorb, h])]
      rfl
  rw [State.crcRun, loop frame s.crcLoad Config.crc.init rfl]
  rfl

@[simp] theorem State.crcRun_crc (frame : List Byte) (s : State) :
    (s.crcRun frame).crc = some (crc8 Config.crc frame) := by rw [State.crcRun_eq]

@[simp] theorem State.crcRun_buf (frame : List Byte) (s : State) : (s.crcRun frame).buf = s.buf := by
  rw [State.crcRun_eq]

@[simp] theorem State.crcRun_cfg (frame : List Byte) (s : State) : (s.crcRun frame).cfg = s.cfg := by
  rw [State.crcRun_eq]

@[simp] theorem State.crcRun_answers (frame : List Byte) (s : State) : (s.crcRun frame).answers = s.answers := by
  rw [State.crcRun_eq]

/-- Ending an operation forgets what the register loop left in `CRC`. -/
theorem ended_crcRun (frame : List Byte) (s : State) (r : OpResult) (rest : List Answer) (evs : List BusEvent) :
    (s.crcRun frame).ended r rest evs = s.ended r rest evs := by
  rw [State.crcRun_eq]; rfl

/-- `CRC_POLY` is admissible (R89). -/
theorem crcPoly_ne_zero : Config.crcPoly ≠ 0 := by
  intro h
  have h' := congrArg BitVec.toNat h
  have := Config.crcPolyIndex.isLt
  simp [Config.crcPoly, Config.polyOfIndex] at h'
  omega

end Sys2Proof.Machine
end

