-- ==== Sys2Proof/Laws/Decode.lean ====
section
/-! SUPPORT. The small laws of the decoders and encoders. -/

namespace Sys2Proof

/-- Reading back one operand of the flat form, with whatever follows it. A sequence needs a length that one byte
counts. -/
theorem parseOperand_encodeOperand (x : Operand) (rest : List Byte)
    (h : ∀ bs, x = .seq bs → bs.length < 256) :
    parseOperand x.shape (encodeOperand x ++ rest) = .ok (x, rest) := by
  cases x with
  | byte b => rfl
  | seq bs =>
    have hl : bs.length % 256 = bs.length := Nat.mod_eq_of_lt (h bs rfl)
    simp [parseOperand, encodeOperand, Operand.shape, hl]

/-- Reading back a list of operands of the flat form. -/
theorem parseOperands_encode (xs : List Operand) (rest : List Byte)
    (h : ∀ bs, Operand.seq bs ∈ xs → bs.length < 256) :
    parseOperands (xs.map Operand.shape) (xs.flatMap encodeOperand ++ rest) = .ok (xs, rest) := by
  induction xs with
  | nil => rfl
  | cons x xs ih =>
    rw [List.map_cons, List.flatMap_cons, List.append_assoc, parseOperands,
      parseOperand_encodeOperand x _ fun bs hx => h bs (hx ▸ List.mem_cons_self)]
    simp only [ih fun bs hx => h bs (List.mem_cons_of_mem x hx)]

/-- An operation's operands have the shapes R64 gives its code. -/
theorem Instr.operands_shape (i : Instr) : i.operands.map Operand.shape = operandShapes i.code := by
  cases i <;> rfl

/-- The code in the first byte of the flat form is the operation's. -/
theorem Instr.flatCode_code (i : Instr) : flatCode (i.code.zeroExtend 8) = i.code := by
  cases i <;> (simp only [Instr.code]; decide)

/-- Parsing stops exactly where the bytes of the request stop. -/
theorem parseFlat_first (first : Byte) (rest : List Byte) :
    parseFlat (first :: rest) =
      match parseOperands (operandShapes (flatCode first)) rest with
      | .error e => .error e
      | .ok (args, rest') => .ok ({ op := flatCode first, args := args }, rest') := rfl

end Sys2Proof
end

