-- ==== Sys2Proof/Laws/Environment.lean ====
section
/-! SUPPORT. What a move of a run can lead to, and induction along runs. -/

namespace Sys2Proof.Machine

theorem nextState_eq_some {o : Result} {t : State} : nextState o = some t ↔ o = .next t := by
  cases o <;> simp [nextState]

/-- Everything a move can do. -/
theorem Move.apply_cases {m : Move} {s t : State} (h : m.apply s = some t) :
    (m = .step ∧ Machine.step s = .next t) ∨
    (∃ r, m = .present r ∧ operationPort r s = .next t) ∨
    (∃ rs, m = .submit rs ∧ t = s.submit rs) ∨
    (m = .withdraw ∧ t = s.withdraw) ∨
    (∃ a, m = .answer a ∧ t = s.supply [a]) ∨
    (∃ p, m = .construct p ∧ reconstruct p s = some (.ok t)) ∨
    (m = .otherTransaction ∧ t = s) := by
  cases m with
  | step => exact .inl ⟨rfl, nextState_eq_some.1 h⟩
  | present r => exact .inr (.inl ⟨r, rfl, nextState_eq_some.1 h⟩)
  | submit rs => exact .inr (.inr (.inl ⟨rs, rfl, (Option.some.inj h).symm⟩))
  | withdraw => exact .inr (.inr (.inr (.inl ⟨rfl, (Option.some.inj h).symm⟩)))
  | answer a => exact .inr (.inr (.inr (.inr (.inl ⟨a, rfl, (Option.some.inj h).symm⟩))))
  | construct p =>
    refine .inr (.inr (.inr (.inr (.inr (.inl ⟨p, rfl, ?_⟩)))))
    rw [Move.apply] at h
    split at h
    · rename_i hr; rw [hr, Option.some.inj h]
    · cases h
    · cases h
  | otherTransaction => exact .inr (.inr (.inr (.inr (.inr (.inr ⟨rfl, (Option.some.inj h).symm⟩)))))

theorem runMoves_cons {m : Move} {ms : List Move} {s u : State} :
    runMoves (m :: ms) s = some u ↔ ∃ t, m.apply s = some t ∧ runMoves ms t = some u := by
  rw [runMoves]
  cases m.apply s <;> simp

/-- What every move keeps, every run keeps. -/
theorem runMoves_induction {P : State → Prop} (hP : ∀ m s t, P s → Move.apply m s = some t → P t) :
    ∀ {ms : List Move} {s t : State}, P s → runMoves ms s = some t → P t
  | [], _, _, hs, h => Option.some.inj h ▸ hs
  | m :: _, s, _, hs, h =>
    let ⟨u, hu, hr⟩ := runMoves_cons.1 h
    runMoves_induction hP (hP m s u hs hu) hr

/-- A premise that holds wherever a move can be made holds along every run that can be made. -/
theorem Along.of_runMoves {P : Move → State → Prop} (hP : ∀ m s t, Move.apply m s = some t → P m s) :
    ∀ {ms : List Move} {s t : State}, runMoves ms s = some t → Along P ms s
  | [], _, _, _ => trivial
  | m :: _, s, _, h => by
    obtain ⟨u, hu, hr⟩ := runMoves_cons.1 h
    refine ⟨hP m s u hu, ?_⟩
    rw [hu]
    exact Along.of_runMoves hP hr

/-- A run that can be made to its end meets no answer the port cannot carry. -/
theorem AnswersAdmissible.of_runMoves {ms : List Move} {s t : State} (h : runMoves ms s = some t) :
    AnswersAdmissible ms s := by
  refine Along.of_runMoves (fun m s u hu => ⟨?_, ?_⟩) h
  · rintro rfl hr; rw [Move.apply, hr] at hu; cases hu
  · rintro r rfl hr; rw [Move.apply, hr] at hu; cases hu

end Sys2Proof.Machine
end

