-- ==== Sys2Proof/Laws/PerInstr.lean ====
section
/-! SUPPORT. Statements made of every operation, one lemma per constructor of Instr. -/

namespace Sys2Proof.Laws.RequestRoundTrip

/-- The request record of an operation is read back as that operation, its operands are the ones R64 lists, and it is
a well-formed request exactly when the operation is one of the six. -/
def Statement (i : Instr) : Prop :=
  decodeRequest (encodeRequest i) = .ok i ∧ (encodeRequest i).operandsMatch = true ∧
    (encodeRequest i).wellFormed = i.wellFormed

theorem crcCompute (frame : List Byte) : Statement (.crcCompute frame) := ⟨rfl, rfl, rfl⟩

theorem crcValidate (frame : List Byte) (expected : Byte) : Statement (.crcValidate frame expected) := ⟨rfl, rfl, rfl⟩

theorem asmDecode (d0 d1 d2 d3 : Byte) : Statement (.asmDecode d0 d1 d2 d3) := ⟨rfl, rfl, rfl⟩

theorem rpWriteCommand (bytes : List Byte) : Statement (.rpWriteCommand bytes) := ⟨rfl, rfl, rfl⟩

theorem rpReadFrame : Statement .rpReadFrame := ⟨rfl, rfl, rfl⟩

theorem rpReadRaw : Statement .rpReadRaw := ⟨rfl, rfl, rfl⟩

theorem reserved110 : Statement .reserved110 := ⟨rfl, rfl, rfl⟩

theorem reserved111 : Statement .reserved111 := ⟨rfl, rfl, rfl⟩

end Sys2Proof.Laws.RequestRoundTrip
end

