-- ==== Sys2Proof/Laws/RegisterProtocol.lean ====
section
/-! SUPPORT. The pieces the three bus operations share: how a read answer is taken, and what the check and the decode do
with a full frame. -/

namespace Sys2Proof.Machine

theorem frameBytes_le (crcEn : Bool) : frameBytes crcEn ≤ bufCells := by cases crcEn <;> decide

theorem four_le_frameBytes (crcEn : Bool) : 4 ≤ frameBytes crcEn := by cases crcEn <;> decide

theorem receiveFrame_busError (k : State → Result) (s : State) :
    receiveFrame k .busError s = .next (s.ended (.err .busError) s.answers []) := raise_eq _ s

theorem isShort_ofNat (n m : Nat) (h : n ≤ bufCells) : isShort (BitVec.ofNat 3 n) m = decide (n < m) := by
  have : n % 8 = n := Nat.mod_eq_of_lt (by unfold bufCells at h; omega)
  simp [isShort, this]

theorem receiveFrame_short (k : State → Result) (s : State) (bs : List Byte)
    (h : bs.length < frameBytes s.cfg.crcEn) :
    receiveFrame k (.ok bs) s = .next (s.ended (.err .shortRead) s.answers []) := by
  have hb : bs.length ≤ bufCells := by have := frameBytes_le s.cfg.crcEn; omega
  rw [receiveFrame, fillBuf_ok bs _ s hb, readCnt_ok _ _ _ rfl, isShort_ofNat _ _ hb]
  simp only [State.filled_cfg, h, decide_true, if_true, raise_eq]
  rfl

theorem receiveFrame_full (k : State → Result) (s : State) (bs : List Byte)
    (h : bs.length = frameBytes s.cfg.crcEn) : receiveFrame k (.ok bs) s = k (s.filled bs) := by
  have hb : bs.length ≤ bufCells := by have := frameBytes_le s.cfg.crcEn; omega
  rw [receiveFrame, fillBuf_ok bs _ s hb, readCnt_ok _ _ _ rfl, isShort_ofNat _ _ hb]
  simp [h, State.filled]

/-- What becomes of the answer to a read: an error, a short read, or a full frame for the rest of the operation. -/
theorem receiveFrame_cases (k : State → Result) (a : Answer) (s : State) (ha : s.cfg.readCall.admits a = true) :
    (a = .busError ∧ receiveFrame k a s = .next (s.ended (.err .busError) s.answers [])) ∨
    (∃ bs, a = .ok bs ∧ bs.length < frameBytes s.cfg.crcEn ∧
      receiveFrame k a s = .next (s.ended (.err .shortRead) s.answers [])) ∨
    (∃ bs, a = .ok bs ∧ bs.length = frameBytes s.cfg.crcEn ∧ receiveFrame k a s = k (s.filled bs)) := by
  cases a with
  | busError => exact .inl ⟨rfl, receiveFrame_busError k s⟩
  | ok bs =>
    have hle : bs.length ≤ frameBytes s.cfg.crcEn := of_decide_eq_true ha
    rcases Nat.lt_or_eq_of_le hle with h | h
    · exact .inr (.inl ⟨bs, rfl, h, receiveFrame_short k s bs h⟩)
    · exact .inr (.inr ⟨bs, rfl, h, receiveFrame_full k s bs h⟩)

theorem returnFrame_filled (s : State) (bs : List Byte) (h : bs.length = frameBytes s.cfg.crcEn) :
    returnFrame (s.filled bs) = .next (s.ended (.ok (.frame bs)) s.answers []) := by
  have hb : bs.length ≤ bufCells := by have := frameBytes_le s.cfg.crcEn; omega
  rw [returnFrame, readBufs_filled bs _ _ _ (by simp [State.filled, h]) hb rfl, finish_eq]
  simp [State.filled, State.ended, ← h]

/-- `RP.WRITE_COMMAND` at Idle, its answer there. -/
theorem execRpWriteCommand_answered (bytes : List Byte) (s : State) (a : Answer) (rest : List Answer)
    (h : s.st = .idle) (ha : s.answers = a :: rest) (hadm : (BusCall.write s.cfg.i2cAddress bytes).admits a = true) :
    execRpWriteCommand bytes s =
      afterWriteCommand a ((s.begin .writeCommand).answered (.write s.cfg.i2cAddress bytes) a rest) := by
  rw [execRpWriteCommand, whenIdle_idle _ _ h]
  exact await_answered _ _ (s.begin .writeCommand) a rest ha hadm

/-- `RP.READ_FRAME` at Idle, its answer there. -/
theorem execRpReadFrame_answered (s : State) (a : Answer) (rest : List Answer) (h : s.st = .idle)
    (ha : s.answers = a :: rest) (hadm : s.cfg.readCall.admits a = true) :
    execRpReadFrame s = receiveFrame returnFrame a ((s.begin .readFrame).answered s.cfg.readCall a rest) := by
  rw [execRpReadFrame, whenIdle_idle _ _ h]
  exact await_answered _ _ (s.begin .readFrame) a rest ha hadm

/-- `RP.READ_RAW` at Idle, the answer to its write there: after it the operation is in its read phase. -/
theorem execRpReadRaw_selected (s : State) (rest : List Answer) (h : s.st = .idle) (ha : s.answers = .ok [] :: rest) :
    execRpReadRaw s = rawRead ((((s.begin .readRaw).setPh .write).answered s.cfg.selectCall (.ok []) rest).setPh .read) := by
  rw [execRpReadRaw, whenIdle_idle _ _ h]
  exact await_answered _ _ ((s.begin .readRaw).setPh .write) (.ok []) rest ha rfl

/-- The read phase, its answer there. -/
theorem rawRead_answered (s : State) (a : Answer) (rest : List Answer) (ha : s.answers = a :: rest)
    (hadm : s.cfg.readCall.admits a = true) :
    rawRead s = receiveFrame (fun t => rawCheck (t.setPh .check)) a (s.answered s.cfg.readCall a rest) :=
  await_answered _ _ s a rest ha hadm

/-- Phase `P_DECODE` on a buffer filled with at least the four data bytes. -/
theorem rawDecode_filled (s : State) (bs : List Byte) (h4 : 4 ≤ bs.length) (hb : bs.length ≤ bufCells)
    (hbuf : s.buf = Memory.writeAll [] 0 bs) :
    rawDecode s = .next (s.ended (.ok (.reading (decodeReading bs[0] bs[1] bs[2] bs[3]))) s.answers []) := by
  rw [rawDecode, readBuf_filled bs 0 _ s (by omega) hb hbuf, readBuf_filled bs 1 _ s (by omega) hb hbuf,
    readBuf_filled bs 2 _ s (by omega) hb hbuf, readBuf_filled bs 3 _ s (by omega) hb hbuf, finish_eq]

/-- Phases `P_CHECK` and `P_DECODE` on a full frame. -/
theorem rawCheck_filled (s : State) (bs : List Byte) (h : bs.length = frameBytes s.cfg.crcEn)
    (h4 : 4 ≤ bs.length) (hbuf : s.buf = Memory.writeAll [] 0 bs) :
    rawCheck s =
      if checkPasses s.cfg.crcEn bs then
        .next (s.ended (.ok (.reading (decodeReading bs[0] bs[1] bs[2] bs[3]))) s.answers [])
      else .next (s.ended (.err .dataIntegrity) s.answers []) := by
  have hb : bs.length ≤ bufCells := by have := frameBytes_le s.cfg.crcEn; omega
  cases hc : s.cfg.crcEn with
  | false =>
    rw [rawCheck]
    simp only [hc, Bool.false_eq_true, if_false, checkPasses, Bool.not_false, Bool.true_or, if_true]
    exact rawDecode_filled (s.setPh .decode) bs h4 hb hbuf
  | true =>
    have h5 : bs.length = 5 := by rw [h, hc]; rfl
    rw [rawCheck]
    simp only [hc, if_true]
    rw [show dataIndices = List.range 4 from rfl, readBufs_filled bs 4 _ s h4 hb hbuf,
      readCrc_ok _ _ _ (State.crcRun_crc _ _),
      readBuf_filled bs checkIndex _ _ (by rw [h5]; decide) hb (by rw [State.crcRun_buf]; exact hbuf)]
    have hk : bs[4]? = some bs[4] := List.getElem?_eq_getElem (by omega)
    have hcp : checkPasses true bs = checksumsAgree (crc8 Config.crc (bs.take 4)) bs[4] := by
      simp [checkPasses, hk]
    rw [hcp]
    have hci : bs[checkIndex]'(by rw [h5]; decide) = bs[4] := rfl
    rw [hci]
    split_ifs
    · rw [rawDecode_filled ((s.crcRun (bs.take 4)).setPh .decode) bs h4 hb (by simpa using hbuf),
        State.crcRun_eq]
      rfl
    · rw [raise_eq, State.crcRun_answers, ended_crcRun]

/-! ### Each bus access, from its call to its result -/

/-- The result of a read answer: an error, a short read, or what a full frame gives. -/
def readResult (cfg : Cfg) (onFull : List Byte → OpResult) : Answer → OpResult
  | .busError => .err .busError
  | .ok bs => if bs.length < frameBytes cfg.crcEn then .err .shortRead else onFull bs

/-- The result of a full frame in `RP.READ_RAW`. -/
def rawResult (cfg : Cfg) (bs : List Byte) : OpResult :=
  if checkPasses cfg.crcEn bs then
    .ok (.reading (decodeReading (bs.getD 0 0) (bs.getD 1 0) (bs.getD 2 0) (bs.getD 3 0)))
  else .err .dataIntegrity

theorem rawCheck_filled_eq (s : State) (bs : List Byte) (h : bs.length = frameBytes s.cfg.crcEn) :
    rawCheck ((s.filled bs).setPh .check) = .next (s.ended (rawResult s.cfg bs) s.answers []) := by
  have h4 : 4 ≤ bs.length := by have := four_le_frameBytes s.cfg.crcEn; omega
  rw [rawCheck_filled ((s.filled bs).setPh .check) bs h h4 rfl]
  rw [rawResult, List.getD_eq_getElem _ _ (by omega : 0 < bs.length), List.getD_eq_getElem _ _ (by omega : 1 < bs.length),
    List.getD_eq_getElem _ _ (by omega : 2 < bs.length), List.getD_eq_getElem _ _ (by omega : 3 < bs.length)]
  by_cases hc : checkPasses s.cfg.crcEn bs = true
  · rw [if_pos hc]; exact if_pos hc
  · rw [if_neg hc]; exact if_neg hc

theorem readCall_admits_le {cfg : Cfg} {bs : List Byte} (h : cfg.readCall.admits (.ok bs) = true) :
    bs.length ≤ frameBytes cfg.crcEn := of_decide_eq_true h

theorem selectCall_admits_nil {cfg : Cfg} {bs : List Byte} (h : cfg.selectCall.admits (.ok bs) = true) : bs = [] :=
  List.eq_nil_of_length_eq_zero (Nat.le_zero.1 (of_decide_eq_true h))

/-- Taking an admissible answer to a read, when a full frame ends the operation. -/
theorem receiveFrame_eq (k : State → Result) (onFull : List Byte → OpResult) (a : Answer) (s : State)
    (hk : ∀ bs, bs.length = frameBytes s.cfg.crcEn → k (s.filled bs) = .next (s.ended (onFull bs) s.answers []))
    (ha : s.cfg.readCall.admits a = true) :
    receiveFrame k a s = .next (s.ended (readResult s.cfg onFull a) s.answers []) := by
  cases a with
  | busError => exact receiveFrame_busError k s
  | ok bs =>
    rcases Nat.lt_or_eq_of_le (readCall_admits_le ha) with h | h
    · simp only [receiveFrame_short k s bs h, readResult, h, if_true]
    · simp only [receiveFrame_full k s bs h, hk bs h, readResult, h, Nat.lt_irrefl, if_false]

/-- `RP.WRITE_COMMAND` from its call on: it waits, ends by the answer, or does not take it. -/
theorem writeCommand_eq (bytes : List Byte) (s : State) :
    writeCommand bytes s =
      match s.answers with
      | [] => .next { s with call := some (.write s.cfg.i2cAddress bytes) }
      | a :: rest =>
        if (BusCall.write s.cfg.i2cAddress bytes).admits a then
          .next (s.ended (match a with | .ok _ => .ok .unit | .busError => .err .busError) rest
            [.write s.cfg.i2cAddress bytes a])
        else .refused .inadmissibleAnswer := by
  rw [writeCommand]
  rcases hs : s.answers with _ | ⟨a, rest⟩
  · rw [await_silent _ _ _ hs]; simp [hs]
  · cases hadm : (BusCall.write s.cfg.i2cAddress bytes).admits a with
    | false => rw [await_inadmissible _ _ _ a rest hs hadm]; simp [hadm]
    | true =>
      rw [await_answered _ _ _ a rest hs hadm]
      simp only [hadm, if_true]
      cases a with
      | ok bs => simp only [afterWriteCommand, finish_eq, ended_answered]; rfl
      | busError => simp only [afterWriteCommand, raise_eq, ended_answered]; rfl

/-- A read whose full frame ends the operation, from its call on. -/
theorem await_read_eq (k : State → Result) (onFull : List Byte → OpResult) (s : State)
    (hk : ∀ (t : State) (bs : List Byte), t.cfg = s.cfg → bs.length = frameBytes t.cfg.crcEn →
      k (t.filled bs) = .next (t.ended (onFull bs) t.answers [])) :
    await s.cfg.readCall (receiveFrame k) s =
      match s.answers with
      | [] => .next { s with call := some s.cfg.readCall }
      | a :: rest =>
        if s.cfg.readCall.admits a then
          .next (s.ended (readResult s.cfg onFull a) rest [s.cfg.readCall.event a])
        else .refused .inadmissibleAnswer := by
  rcases hs : s.answers with _ | ⟨a, rest⟩
  · rw [await_silent _ _ _ hs]; simp [hs]
  · cases hadm : s.cfg.readCall.admits a with
    | false => rw [await_inadmissible _ _ _ a rest hs hadm]; simp [hadm]
    | true =>
      rw [await_answered _ _ _ a rest hs hadm,
        receiveFrame_eq k onFull a (s.answered s.cfg.readCall a rest) (fun bs hb => hk _ bs rfl hb) hadm]
      simp only [hadm, if_true, ended_answered]
      rfl

/-- `RP.READ_FRAME` from its call on. -/
theorem readFrame_eq (s : State) :
    readFrame s =
      match s.answers with
      | [] => .next { s with call := some s.cfg.readCall }
      | a :: rest =>
        if s.cfg.readCall.admits a then
          .next (s.ended (readResult s.cfg (fun bs => .ok (.frame bs)) a) rest [s.cfg.readCall.event a])
        else .refused .inadmissibleAnswer :=
  await_read_eq returnFrame _ s fun t bs _ h => returnFrame_filled t bs h

/-- The read phase of `RP.READ_RAW` from its call on. -/
theorem rawRead_eq (s : State) :
    rawRead s =
      match s.answers with
      | [] => .next { s with call := some s.cfg.readCall }
      | a :: rest =>
        if s.cfg.readCall.admits a then
          .next (s.ended (readResult s.cfg (rawResult s.cfg) a) rest [s.cfg.readCall.event a])
        else .refused .inadmissibleAnswer :=
  await_read_eq _ (rawResult s.cfg) s fun t bs hc h => by rw [rawCheck_filled_eq t bs h, hc]

/-- The write phase of `RP.READ_RAW` from its call on: it waits, ends with BusError, does not take the answer, or goes on
to the read phase. -/
theorem rawWrite_eq (s : State) :
    rawWrite s =
      match s.answers with
      | [] => .next { s with call := some s.cfg.selectCall }
      | .busError :: rest => .next (s.ended (.err .busError) rest [s.cfg.selectCall.event .busError])
      | .ok [] :: rest => rawRead ((s.answered s.cfg.selectCall (.ok []) rest).setPh .read)
      | .ok (_ :: _) :: _ => .refused .inadmissibleAnswer := by
  rw [rawWrite]
  rcases hs : s.answers with _ | ⟨_ | _, rest⟩
  · rw [await_silent _ _ _ hs]; simp [hs]
  · rename_i bs
    cases bs with
    | nil => rw [await_answered _ _ _ _ rest hs rfl]; rfl
    | cons b bs => rw [await_inadmissible _ _ _ _ rest hs (decide_eq_false (by simp [Cfg.selectCall, BusCall.limit]))]
  · rw [await_answered _ _ _ _ rest hs rfl, afterRawWrite, raise_eq, ended_answered]; rfl

end Sys2Proof.Machine
end

