-- ==== Sys2Proof/Machine/Display.lean ====
section
/-! DEFINITION. The written form of requests and results (30_encoding.md R71): the mnemonic, operands separated by
commas, a byte sequence in square brackets with two-digit hexadecimal bytes. Nothing in the machine depends on it. -/

namespace Sys2Proof.Machine

/-- One hexadecimal digit. -/
def hexDigit (n : Nat) : String :=
  ["0", "1", "2", "3", "4", "5", "6", "7", "8", "9", "A", "B", "C", "D", "E", "F"].getD n ""

/-- A byte as two hexadecimal digits. -/
def hexByte (b : Byte) : String := hexDigit (b.toNat / 16) ++ hexDigit (b.toNat % 16)

/-- A byte operand or value: `0x02`. -/
def showByte (b : Byte) : String := "0x" ++ hexByte b

/-- Strings with a separator between them. -/
def joinWith (sep : String) : List String → String
  | [] => ""
  | [x] => x
  | x :: y :: zs => x ++ sep ++ joinWith sep (y :: zs)

/-- A byte sequence: `[79 39 2B 4E]`. -/
def showBytes (bs : List Byte) : String := "[" ++ joinWith " " (bs.map hexByte) ++ "]"

/-- A request as R71 writes it. -/
def showInstr (i : Instr) : String :=
  match i with
  | .crcCompute frame => i.mnemonic ++ " " ++ showBytes frame
  | .crcValidate frame expected => i.mnemonic ++ " " ++ showBytes frame ++ ", " ++ showByte expected
  | .asmDecode d0 d1 d2 d3 => i.mnemonic ++ " " ++ joinWith ", " ([d0, d1, d2, d3].map showByte)
  | .rpWriteCommand bytes => i.mnemonic ++ " " ++ showBytes bytes
  | .rpReadFrame => i.mnemonic
  | .rpReadRaw => i.mnemonic
  | .reserved110 => i.mnemonic
  | .reserved111 => i.mnemonic

/-- The value of an `Ok` as R71 writes it. -/
def showValue : OpValue → String
  | .byte b => showByte b
  | .bool true => "true"
  | .bool false => "false"
  | .reading r => "(" ++ toString r.pressureCount ++ ", " ++ toString r.temperatureCount ++ ")"
  | .unit => "()"
  | .frame bytes => showBytes bytes

/-- The name of an error (R130). -/
def showError : OpError → String
  | .busError => "BusError"
  | .shortRead => "ShortReadError"
  | .dataIntegrity => "DataIntegrityError"
  | .configuration => "ConfigurationError"

/-- A result as R71 writes it. -/
def showResult : OpResult → String
  | .ok v => "Ok(" ++ showValue v ++ ")"
  | .err e => "Err(" ++ showError e ++ ")"

end Sys2Proof.Machine
end

