-- ==== Sys2Proof/Tests/Slice0.lean ====
section
/-! SUPPORT. Tests. Expected values come from 95_test_vectors.md, 30_encoding.md and 40_crc.md, named at each test. The
last part shows, for each statement with hypotheses, concrete values that meet them. -/

namespace Sys2Proof.Tests

open Sys2Proof.Machine

/-! ### Helpers -/

/-- An Idle block with CRC enabled or not, and a script of transport answers. -/
def scripted (crcEn : Bool) (answers : List Answer) : State :=
  { State.reset with cfg := { State.reset.cfg with crcEn := crcEn }, answers := answers }

/-- An Idle block whose caller has requests to present. -/
def asked (requests : List Request) : State := { State.reset with requests := requests }

/-- A block that waits for the answer to a write, with a further request outstanding. -/
def waiting : State :=
  { State.reset with
    st := .transacting, inProgress := some .writeCommand, call := some (.write 0x6C [0xAA])
    requests := [⟨0b101#3, []⟩] }

/-- A block that waits for the frame of `RP.READ_RAW`, its command answered. -/
def waitingForFrame : State :=
  { State.reset with
    st := .transacting, ph := some .read, inProgress := some .readRaw, call := some (.read 0x6C 4)
    history := [.write 0x6C Config.cmdSelect (.ok [])] }

/-- The results after an outcome that is a next state. -/
def delivered : Machine.Result → Option (List OpResult)
  | .next s => some s.results
  | .fault _ => none
  | .refused _ => none

/-- The refusal of an outcome that is one. -/
def refusal : Machine.Result → Option Refusal
  | .refused why => some why
  | .next _ => none
  | .fault _ => none

/-- The illustrative checksum parameters of 95_test_vectors.md. -/
def p31 : Config.CrcParams := ⟨0x31, 0x00, 0x00, true⟩

/-- The second checksum parameters of 95_test_vectors.md. -/
def p07 : Config.CrcParams := ⟨0x07, 0x00, 0x00, true⟩

/-! ### Well-formedness: each check refuses an ill-formed term (30_encoding.md R67) -/

theorem test_wf_reserved_request : (⟨0b110#3, []⟩ : Request).wellFormed = false := by decide

theorem test_wf_decode_with_three_bytes :
    (⟨0b010#3, [.byte 0x79, .byte 0x39, .byte 0x2B]⟩ : Request).operandsMatch = false := by decide

theorem test_wf_validate_without_check_byte :
    (⟨0b001#3, [.seq [0x79]]⟩ : Request).wellFormed = false := by decide

theorem test_wf_operand_for_read_frame : (⟨0b100#3, [.byte 0x00]⟩ : Request).wellFormed = false := by decide

theorem test_wf_reserved_operation : Instr.reserved111.wellFormed = false := by decide

theorem test_wf_sequence_too_long_for_a_length_byte :
    (Instr.rpWriteCommand (List.replicate 256 0x00)).fitsFlat = false ∧
    (Instr.rpWriteCommand (List.replicate 255 0x00)).fitsFlat = true := by decide +kernel

/-! ### Decoding: a word for every constructor, written from R63 and R66 (programs P1, P3, P4, P5) -/

theorem test_decode_crc_compute :
    decode [0b000, 0x04, 0x12, 0x34, 0x56, 0x78] = .ok (.crcCompute [0x12, 0x34, 0x56, 0x78], []) := by decide

theorem test_decode_crc_validate :
    decode [0b001, 0x04, 0x80, 0x00, 0x7F, 0xFF, 0xFF] = .ok (.crcValidate [0x80, 0x00, 0x7F, 0xFF] 0xFF, []) := by
  decide

theorem test_decode_asm_decode :
    decode [0b010, 0x80, 0x00, 0x7F, 0xFF] = .ok (.asmDecode 0x80 0x00 0x7F 0xFF, []) := by decide

theorem test_decode_write_command : decode [0b011, 0x02, 0xAA, 0xBB] = .ok (.rpWriteCommand [0xAA, 0xBB], []) := by
  decide

theorem test_decode_read_frame : decode [0b100] = .ok (.rpReadFrame, []) := by decide

theorem test_decode_read_raw : decode [0b101] = .ok (.rpReadRaw, []) := by decide

theorem test_decode_reserved : decode [0b110] = .ok (.reserved110, []) ∧ decode [0b111] = .ok (.reserved111, []) := by
  decide

/-- A flat form that ends too early is rejected by that name. -/
theorem test_decode_truncated :
    decode [] = .error .truncated ∧ decode [0b000, 0x02, 0x12] = .error .truncated ∧
    decode [0b010, 0x79, 0x39, 0x2B] = .error .truncated := by decide

/-- An ill-formed record is rejected by that name (program P5). -/
theorem test_decode_ill_formed :
    decodeRequest ⟨0b010#3, [.byte 0x79, .byte 0x39, .byte 0x2B]⟩ = .error .operandsMismatch := by decide

theorem test_table_words :
    decodeTableWord 8 2 = some (.asmDecode 0x00 0x00 0x00 0x00) ∧ decodeTableWord 8 4 = some .rpReadFrame ∧
    decodeTableWord 8 7 = some .reserved111 := by decide

/-! ### One or two steps of the machine for each operation -/

/-- V-C39, V-C11: the checksums of "123456789", and a single byte with bit 7. -/
theorem test_crc_compute_vectors :
    crc8 p31 [0x31, 0x32, 0x33, 0x34, 0x35, 0x36, 0x37, 0x38, 0x39] = 0xA2 ∧
    crc8 p07 [0x31, 0x32, 0x33, 0x34, 0x35, 0x36, 0x37, 0x38, 0x39] = 0xF4 ∧
    crc8 p31 [0x79, 0x39, 0x2B, 0x4E] = 0x02 ∧ crc8 p07 [0x79, 0x39, 0x2B, 0x4E] = 0x9B ∧
    crc8 p31 [0x80] = 0x7A ∧ crc8 p07 [0x80] = 0x89 := by decide +kernel

/-- V-C20, V-C22: valid for every polynomial. -/
theorem test_crc_compute_zeros :
    delivered (exec (.crcCompute []) State.reset) = some [.ok (.byte 0x00)] ∧
    delivered (exec (.crcCompute [0x00, 0x00, 0x00, 0x00]) State.reset) = some [.ok (.byte 0x00)] := by decide +kernel

/-- V-C50, V-C51, V-C52, V-C53: valid for every polynomial. -/
theorem test_crc_validate_zeros :
    delivered (exec (.crcValidate [] 0x00) State.reset) = some [.ok (.bool true)] ∧
    delivered (exec (.crcValidate [] 0x01) State.reset) = some [.ok (.bool false)] ∧
    delivered (exec (.crcValidate [0x00, 0x00, 0x00, 0x00] 0x00) State.reset) = some [.ok (.bool true)] ∧
    delivered (exec (.crcValidate [0x00, 0x00, 0x00, 0x00] 0xFF) State.reset) = some [.ok (.bool false)] := by
  decide +kernel

/-- V-A2, V-A9: the first byte of a pair is the upper one, and its bit 7 is the sign. -/
theorem test_asm_decode_order_and_sign :
    delivered (exec (.asmDecode 0x00 0x01 0x01 0x00) State.reset) = some [.ok (.reading ⟨1, 256⟩)] ∧
    delivered (exec (.asmDecode 0xF9 0x39 0x2B 0x4E) State.reset) = some [.ok (.reading ⟨-1735, 11086⟩)] := by decide

/-- Section 3, "Round trip": the frame of a pair of counts. -/
theorem test_asm_encode : encodeReading ⟨-1735, 11086⟩ = [0xF9, 0x39, 0x2B, 0x4E] := by decide

/-- V-P15, V-P16: the bytes go out unchanged; the transport's error comes back. -/
theorem test_write_command :
    exec (.rpWriteCommand [0xAA, 0xBB]) (scripted false [.ok []]) =
      .next { State.reset with results := [.ok .unit], history := [.write 0x6C [0xAA, 0xBB] (.ok [])] } ∧
    delivered (exec (.rpWriteCommand [0xAA, 0xBB]) (scripted false [.busError])) = some [.err .busError] := by
  exact ⟨rfl, rfl⟩

/-- V-P13, V-P14: the frame as received, unchecked. -/
theorem test_read_frame :
    delivered (exec .rpReadFrame (scripted true [.ok [0x79, 0x39, 0x2B, 0x4E, 0x00]])) =
      some [.ok (.frame [0x79, 0x39, 0x2B, 0x4E, 0x00])] ∧
    delivered (exec .rpReadFrame (scripted false [.ok [0x79, 0x39, 0x2B, 0x4E]])) =
      some [.ok (.frame [0x79, 0x39, 0x2B, 0x4E])] := ⟨rfl, rfl⟩

/-- R114: an answer of four bytes is short when five are required, and no bytes are short. -/
theorem test_read_frame_short :
    delivered (exec .rpReadFrame (scripted true [.ok [0x79, 0x39, 0x2B, 0x4E]])) = some [.err .shortRead] ∧
    delivered (exec .rpReadFrame (scripted false [.ok []])) = some [.err .shortRead] := ⟨rfl, rfl⟩

/-- V-P1, V-P6, V-P8, V-P9, V-P11: CRC disabled. -/
theorem test_read_raw_without_crc :
    delivered (exec .rpReadRaw (scripted false [.ok [], .ok [0x79, 0x39, 0x2B, 0x4E]])) =
      some [.ok (.reading ⟨31033, 11086⟩)] ∧
    delivered (exec .rpReadRaw (scripted false [.ok [], .ok [0x79, 0x39, 0x2B]])) = some [.err .shortRead] ∧
    delivered (exec .rpReadRaw (scripted false [.busError])) = some [.err .busError] ∧
    delivered (exec .rpReadRaw (scripted false [.ok [], .busError])) = some [.err .busError] ∧
    delivered (exec .rpReadRaw (scripted false [.ok [], .ok [0xFF, 0xFF, 0xFF, 0xFF]])) =
      some [.ok (.reading ⟨-1, -1⟩)] := ⟨rfl, rfl, rfl, rfl, rfl⟩

/-- V-P10, V-P5, and a wrong check byte on the all-zero data: CRC enabled, for every polynomial. -/
theorem test_read_raw_with_crc :
    delivered (exec .rpReadRaw (scripted true [.ok [], .ok [0x00, 0x00, 0x00, 0x00, 0x00]])) =
      some [.ok (.reading ⟨0, 0⟩)] ∧
    delivered (exec .rpReadRaw (scripted true [.ok [], .ok [0x79, 0x39, 0x2B, 0x4E]])) = some [.err .shortRead] ∧
    delivered (exec .rpReadRaw (scripted true [.ok [], .ok [0x00, 0x00, 0x00, 0x00, 0x01]])) =
      some [.err .dataIntegrity] := by decide +kernel

/-- V-X4, V-P17: reserved codes, an ill-formed request, and a request while Transacting. -/
theorem test_refusals :
    refusal (operationPort ⟨0b110#3, []⟩ State.reset) = some .reservedCode ∧
    refusal (operationPort ⟨0b111#3, []⟩ State.reset) = some .reservedCode ∧
    refusal (operationPort ⟨0b010#3, [.byte 0x79, .byte 0x39, .byte 0x2B]⟩ State.reset) = some .illFormedRequest ∧
    refusal (operationPort ⟨0b101#3, []⟩ waiting) = some .transacting := by decide

/-- V-X1, V-X2, V-X3. -/
theorem test_construction :
    construct {} = .ok State.reset ∧
    construct { pressureRange := some "1234" } = .error .configuration ∧
    construct { enCrc := some true, i2cAddress := some 0x6D } =
      .ok { State.reset with cfg := ⟨true, 0x6D, .r5050, 0⟩ } := by decide

/-- The placed word is the next thing that runs: code `010` with operand bytes of zeros. -/
theorem test_placed_word_runs :
    delivered (step (State.reset.withFetchWord 8 2)) = some [.ok (.reading ⟨0, 0⟩)] ∧
    refusal (step (State.reset.withFetchWord 8 6)) = some .reservedCode := by decide

/-- R71: the display of that rule. -/
theorem test_display :
    showInstr (.crcValidate [0x79, 0x39, 0x2B, 0x4E] 0x02) = "CRC.VALIDATE [79 39 2B 4E], 0x02" ∧
    showInstr (.asmDecode 0x79 0x39 0x2B 0x4E) = "ASM.DECODE 0x79, 0x39, 0x2B, 0x4E" ∧
    showResult (.ok (.frame [0x79, 0x39, 0x2B, 0x4E, 0x02])) = "Ok([79 39 2B 4E 02])" := by decide

/-- The checksum of four zero bytes is zero whatever the polynomial (V-C22). -/
theorem test_crc_of_zeros : crc8 Config.crc [0, 0, 0, 0] = 0 := by decide +kernel

/-! ### The hypotheses of the statements can be met

One theorem for each statement that has hypotheses, one conjunct for each clause, at boundary values. -/

theorem test_meets_FlatFormRoundTrips : (Instr.crcCompute (List.replicate 255 0xFF)).fitsFlat = true := by
  decide +kernel

theorem test_meets_StepRunsTheDecodedRequest :
    (∃ (s : State) (r : Request) (rs : List Request) (i : Instr),
      s.st = .idle ∧ s.requests = r :: rs ∧ decodeRequest r = .ok i) ∧
    (∃ (s : State) (r : Request) (rs : List Request) (e : DecodeError),
      s.st = .idle ∧ s.requests = r :: rs ∧ decodeRequest r = .error e) ∧
    (∃ s : State, s.st = .idle ∧ s.requests = []) ∧
    ∃ (s : State) (nbits w : Nat) (i : Instr), s.st = .idle ∧ decodeTableWord nbits w = some i :=
  ⟨⟨asked [⟨0b101#3, []⟩], ⟨0b101#3, []⟩, [], .rpReadRaw, rfl, rfl, rfl⟩,
    ⟨asked [⟨0b101#3, [.byte 0]⟩], ⟨0b101#3, [.byte 0]⟩, [], .operandsMismatch, rfl, rfl, rfl⟩, ⟨State.reset, rfl, rfl⟩,
    State.reset, 8, 5, .rpReadRaw, rfl, by decide⟩

theorem test_meets_PortRefusesExactlyWhatItDoesNotTake :
    (∃ r : Request, r.wellFormed = false) ∧ (∃ s : State, s.st = .transacting) ∧
    ∃ (r : Request) (s : State), r.wellFormed = true ∧ s.st = .idle :=
  ⟨⟨⟨0b110#3, []⟩, by decide⟩, ⟨waiting, rfl⟩, ⟨0b101#3, []⟩, State.reset, by decide, rfl⟩

theorem test_meets_ReservedAndIllFormedRequestsAreRefused :
    ∃ r : Request, r.wellFormed = false ∧ r.op = 0b101#3 := ⟨⟨0b101#3, [.byte 0x00]⟩, by decide, rfl⟩

theorem test_meets_NoOperationIsTakenWhileTransacting :
    (∃ (i : Instr) (s : State), i.wellFormed = true ∧ s.st = .transacting) ∧
    ∃ (i : Instr) (s t : State), exec i s = .next t :=
  ⟨⟨.rpReadRaw, waiting, rfl, rfl⟩, .crcCompute [], State.reset, _, rfl⟩

theorem test_meets_RefusedRequestLeavesNoTrace :
    ∃ (s : State) (bad good : Request) (rs : List Request) (i : Instr) (why : Refusal),
      s.st = .idle ∧ s.requests = bad :: good :: rs ∧ step s = .refused why ∧ decodeRequest good = .ok i :=
  ⟨asked [⟨0b110#3, []⟩, ⟨0b101#3, []⟩], ⟨0b110#3, []⟩, ⟨0b101#3, []⟩, [], .rpReadRaw, .reservedCode,
    rfl, rfl, rfl, rfl⟩

theorem test_meets_ConstructionLoadsConfiguration :
    (∃ (p : ConstructionParams) (range : PressureRange), p.pressureRange = some range.spelling) ∧
    ∃ (p : ConstructionParams) (range : PressureRange), p.pressureRange = none ∧ range = .r5050 :=
  ⟨⟨{ pressureRange := some "0025" }, .r0025, rfl⟩, {}, .r5050, rfl, rfl⟩

theorem test_meets_ReconstructionReplacesTheState :
    (∃ s : State, s.st = .transacting) ∧
    (∃ (p : ConstructionParams) (s t : State), s.st = .idle ∧ construct p = .ok t) ∧
    ∃ (p : ConstructionParams) (s : State) (e : OpError), s.st = .idle ∧ construct p = .error e :=
  ⟨⟨waiting, rfl⟩, ⟨{}, State.reset, State.reset, rfl, by decide⟩,
    { pressureRange := some "1234" }, State.reset, .configuration, rfl, by decide⟩

theorem test_meets_CrcBitShiftsTowardBitSeven :
    ∃ a b : Byte, p31.msbFirst = true ∧ a[7] = true ∧ b[7] = false := ⟨0x80, 0x7F, rfl, by decide, by decide⟩

/-- The premise of the laws of 40_crc.md, by the illustrative parameters and by this hardware's own. -/
theorem test_meets_StandardParams : StandardParams p31 ∧ StandardParams p07 ∧ StandardParams Config.crc :=
  ⟨⟨rfl, rfl, rfl⟩, ⟨rfl, rfl, rfl⟩, rfl, rfl, rfl⟩

theorem test_meets_ResidueTestMatchesValidate :
    StandardParams p07 ∧ (∀ c : Byte, (crcBit p07)^[8] c = 0x00 → c = 0x00) ∧
    p07.msbFirst = true ∧ p07.poly[0] = true := by
  refine ⟨⟨rfl, rfl, rfl⟩, ?_, rfl, by decide⟩
  decide +kernel

theorem test_meets_SingleBitErrorsAreDetected :
    StandardParams p31 ∧ PolyAdmissible p31 ∧
    ∃ (frame : List Byte) (i j : Nat) (b : Byte), frame[i]? = some b ∧ i + 1 = frame.length ∧ j < 8 ∧ j = 7 :=
  ⟨⟨rfl, rfl, rfl⟩, by unfold PolyAdmissible; decide, [0x79, 0x39, 0x2B, 0x4E], 3, 7, 0x4E, rfl, rfl, by decide, rfl⟩

theorem test_meets_ZeroPolynomialIsExcluded :
    ∃ p : Config.CrcParams, StandardParams p ∧ p.poly = 0x00 := ⟨⟨0, 0, 0, true⟩, ⟨rfl, rfl, rfl⟩, rfl⟩

/-- The premise "at Idle" of the completion statements, by the reset state and by a state with answers waiting. -/
theorem test_meets_Idle : State.reset.st = .idle ∧ (scripted true [.ok []]).st = .idle := ⟨rfl, rfl⟩

theorem test_meets_CountsAreBigEndianTwosComplement :
    ∃ a b : Count16, a[15] = false ∧ b[15] = true ∧ s16 a = 32767 ∧ s16 b = -32768 :=
  ⟨0x7FFF, 0x8000, by decide, by decide, by decide, by decide⟩

theorem test_meets_DecodeIsABijection :
    ∃ p t : Int, -32768 ≤ p ∧ p ≤ 32767 ∧ -32768 ≤ t ∧ t ≤ 32767 ∧ p = -32768 ∧ t = 32767 :=
  ⟨-32768, 32767, by decide, by decide, by decide, by decide, rfl, rfl⟩

theorem test_meets_WriteCommandCompletesByTheAnswer :
    (∃ (s : State) (rest : List Answer), s.st = .idle ∧ s.answers = .ok [] :: rest) ∧
    ∃ (s : State) (rest : List Answer), s.st = .idle ∧ s.answers = .busError :: rest :=
  ⟨⟨scripted false [.ok []], [], rfl, rfl⟩, scripted true [.busError, .ok []], [.ok []], rfl, rfl⟩

theorem test_meets_ReadFrameCompletesByTheAnswer :
    (∃ (s : State) (bs : List Byte), s.st = .idle ∧ s.cfg.crcEn = true ∧ s.answers = [.ok bs] ∧ bs.length = 5) ∧
    (∃ (s : State) (bs : List Byte), s.st = .idle ∧ s.cfg.crcEn = true ∧ s.answers = [.ok bs] ∧ bs.length = 4) ∧
    (∃ (s : State) (bs : List Byte), s.st = .idle ∧ s.cfg.crcEn = false ∧ s.answers = [.ok bs] ∧ bs.length = 4) ∧
    (∃ (s : State) (bs : List Byte), s.st = .idle ∧ s.cfg.crcEn = false ∧ s.answers = [.ok bs] ∧ bs.length = 0) ∧
    ∃ s : State, s.st = .idle ∧ s.answers = [.busError] :=
  ⟨⟨scripted true [.ok [1, 2, 3, 4, 5]], _, rfl, rfl, rfl, rfl⟩, ⟨scripted true [.ok [1, 2, 3, 4]], _, rfl, rfl, rfl, rfl⟩,
    ⟨scripted false [.ok [1, 2, 3, 4]], _, rfl, rfl, rfl, rfl⟩, ⟨scripted false [.ok []], _, rfl, rfl, rfl, rfl⟩,
    scripted false [.busError], rfl, rfl⟩

theorem test_meets_ReadRawCompletesByTheAnswers :
    (∃ s : State, s.st = .idle ∧ s.answers = [.busError]) ∧
    (∃ s : State, s.st = .idle ∧ s.answers = [.ok [], .busError]) ∧
    (∃ (s : State) (bs : List Byte), s.st = .idle ∧ s.cfg.crcEn = true ∧ s.answers = [.ok [], .ok bs] ∧
      bs.length = 4) ∧
    (∃ (s : State) (bs : List Byte), s.st = .idle ∧ s.cfg.crcEn = false ∧ s.answers = [.ok [], .ok bs] ∧
      bs.length = 3) ∧
    (∃ (s : State) (d0 d1 d2 d3 : Byte), s.st = .idle ∧ s.cfg.crcEn = false ∧
      s.answers = [.ok [], .ok [d0, d1, d2, d3]]) ∧
    (∃ (s : State) (d0 d1 d2 d3 k : Byte), s.st = .idle ∧ s.cfg.crcEn = true ∧
      s.answers = [.ok [], .ok [d0, d1, d2, d3, k]] ∧ crc8 Config.crc [d0, d1, d2, d3] = k) ∧
    (∃ (s : State) (d0 d1 d2 d3 k : Byte), s.st = .idle ∧ s.cfg.crcEn = true ∧
      s.answers = [.ok [], .ok [d0, d1, d2, d3, k]] ∧ crc8 Config.crc [d0, d1, d2, d3] ≠ k) ∧
    ∃ u : State, u.cfg.crcEn = false :=
  ⟨⟨scripted false [.busError], rfl, rfl⟩, ⟨scripted true [.ok [], .busError], rfl, rfl⟩,
    ⟨scripted true [.ok [], .ok [1, 2, 3, 4]], _, rfl, rfl, rfl, rfl⟩,
    ⟨scripted false [.ok [], .ok [1, 2, 3]], _, rfl, rfl, rfl, rfl⟩,
    ⟨scripted false [.ok [], .ok [1, 2, 3, 4]], 1, 2, 3, 4, rfl, rfl, rfl⟩,
    ⟨scripted true [.ok [], .ok [0, 0, 0, 0, 0]], 0, 0, 0, 0, 0, rfl, rfl, rfl, test_crc_of_zeros⟩,
    ⟨scripted true [.ok [], .ok [0, 0, 0, 0, 1]], 0, 0, 0, 0, 1, rfl, rfl, rfl, by
      rw [test_crc_of_zeros]; decide⟩,
    State.reset, rfl⟩

/-- The last bit of the check byte, and the first bit of the frame. -/
theorem test_meets_FrameWithOneBitErrorIsRejected :
    (∃ (s : State) (good : List Byte) (b : Byte), s.st = .idle ∧ s.cfg.crcEn = true ∧
      good = [0, 0, 0, 0, crc8 Config.crc [0, 0, 0, 0]] ∧ good[4]? = some b ∧
      s.answers = [.ok [], .ok (good.set 4 (b ^^^ BitVec.twoPow 8 0))]) ∧
    ∃ (s : State) (good : List Byte) (b : Byte), s.st = .idle ∧ s.cfg.crcEn = true ∧
      good = [1, 2, 3, 4, crc8 Config.crc [1, 2, 3, 4]] ∧ good[0]? = some b ∧
      s.answers = [.ok [], .ok (good.set 0 (b ^^^ BitVec.twoPow 8 7))] :=
  ⟨⟨scripted true [.ok [], .ok [0, 0, 0, 0, crc8 Config.crc [0, 0, 0, 0] ^^^ BitVec.twoPow 8 0]],
      [0, 0, 0, 0, crc8 Config.crc [0, 0, 0, 0]], _, rfl, rfl, rfl, rfl, rfl⟩,
    scripted true [.ok [], .ok [1 ^^^ BitVec.twoPow 8 7, 2, 3, 4, crc8 Config.crc [1, 2, 3, 4]]],
      [1, 2, 3, 4, crc8 Config.crc [1, 2, 3, 4]], _, rfl, rfl, rfl, rfl, rfl⟩

set_option maxRecDepth 4000 in
theorem test_meets_DeliveredReadingComesFromACheckedFrame :
    (∃ (s t : State) (v : OpValue), s.cfg.crcEn = true ∧ exec .rpReadRaw s = .next t ∧
      t.results = s.results ++ [.ok v]) ∧
    ∃ (s t : State) (v : OpValue), s.cfg.crcEn = false ∧ exec .rpReadRaw s = .next t ∧
      t.results = s.results ++ [.ok v] :=
  ⟨⟨scripted true [.ok [], .ok [0, 0, 0, 0, 0]], _, _, rfl, rfl, rfl⟩,
    scripted false [.ok [], .ok [1, 2, 3, 4]], _, _, rfl, rfl, rfl⟩

/-- A waiting state that meets the invariant. -/
theorem waiting_inv : waiting.Inv :=
  ⟨fun h => (by cases h), fun _ => ⟨rfl, rfl, rfl, .inl ⟨rfl, rfl, _, rfl⟩⟩⟩

/-- The same in the read phase of `RP.READ_RAW`. -/
theorem waitingForFrame_inv : waitingForFrame.Inv :=
  ⟨fun h => (by cases h), fun _ => ⟨rfl, rfl, rfl, .inr (.inr (.inr ⟨rfl, rfl, rfl, [], rfl⟩))⟩⟩

/-- An Idle state that meets the invariant. -/
theorem scripted_inv (crcEn : Bool) (answers : List Answer) : (scripted crcEn answers).Inv :=
  ⟨fun _ => ⟨rfl, rfl, rfl, rfl, rfl, rfl⟩, fun h => by cases h⟩

theorem test_meets_UnansweredCallWaitsWithoutBound :
    (∃ s : State, s.st = .idle ∧ s.answers = []) ∧ (∃ s : State, s.st = .idle ∧ s.answers = [.ok []]) ∧
    ∃ s : State, s.Inv ∧ s.st = .transacting ∧ s.answers = [] :=
  ⟨⟨State.reset, rfl, rfl⟩, ⟨scripted true [.ok []], rfl, rfl⟩, waiting, waiting_inv, rfl, rfl⟩

/-- With no answer to the write, and with the write answered and the read not. -/
theorem test_meets_LateAnswersCompleteTheSameOperation :
    (∃ s t : State, s.Inv ∧ s.st = .idle ∧ exec .rpReadRaw { s with answers := [] } = .next t ∧
      t.st = .transacting) ∧
    ∃ s t : State, s.Inv ∧ s.st = .idle ∧ exec .rpReadRaw { s with answers := [.ok []] } = .next t ∧
      t.st = .transacting :=
  ⟨⟨scripted true [], _, scripted_inv _ _, rfl, rfl, rfl⟩, scripted true [], _, scripted_inv _ _, rfl, rfl, rfl⟩

theorem test_meets_OverlongAnswerIsNotTaken :
    (∃ (s : State) (bs : List Byte), s.st = .idle ∧ s.answers = [.ok bs] ∧ bs ≠ []) ∧
    (∃ (s : State) (bs : List Byte), s.st = .idle ∧ s.cfg.crcEn = false ∧ s.answers = [.ok bs] ∧ bs.length = 5) ∧
    (∃ (s : State) (bs : List Byte), s.st = .idle ∧ s.cfg.crcEn = true ∧ s.answers = [.ok bs] ∧ bs.length = 6) ∧
    ∃ (s : State) (bs : List Byte), s.st = .idle ∧ s.cfg.crcEn = false ∧ s.answers = [.ok [], .ok bs] ∧
      bs.length = 5 :=
  ⟨⟨scripted false [.ok [0]], _, rfl, rfl, by decide⟩, ⟨scripted false [.ok [1, 2, 3, 4, 5]], _, rfl, rfl, rfl, rfl⟩,
    ⟨scripted true [.ok [1, 2, 3, 4, 5, 6]], _, rfl, rfl, rfl, rfl⟩,
    scripted false [.ok [], .ok [1, 2, 3, 4, 5]], _, rfl, rfl, rfl, rfl⟩

/-- Answers that serve each of the three bus operations, and the one BusError that is enough for each. -/
theorem test_meets_AnsweredOperationEndsInOneStep :
    (∃ s : State, s.st = .idle ∧
      (∃ a rest, s.answers = a :: rest ∧ (BusCall.write s.cfg.i2cAddress [0xAA]).admits a = true) ∧
      (∃ a rest, s.answers = a :: rest ∧ s.cfg.readCall.admits a = true) ∧
      ∃ a rest, s.answers = a :: rest ∧ s.cfg.selectCall.admits a = true ∧
        ∃ b rest', rest = b :: rest' ∧ s.cfg.readCall.admits b = true) ∧
    ∃ s : State, s.st = .idle ∧ s.answers = [.busError] ∧
      (BusCall.write s.cfg.i2cAddress [0xAA]).admits .busError = true ∧ s.cfg.readCall.admits .busError = true ∧
      s.cfg.selectCall.admits .busError = true :=
  ⟨⟨scripted true [.ok [], .ok [1, 2, 3, 4, 5]], rfl, ⟨_, _, rfl, rfl⟩, ⟨_, _, rfl, rfl⟩, _, _, rfl, rfl, _, _, rfl, rfl⟩,
    scripted true [.busError], rfl, rfl, rfl, rfl, rfl⟩

theorem test_meets_ReadRawAgreesWithSeparateOperations :
    (∃ (s : State) (d0 d1 d2 d3 : Byte) (tail : List Byte), s.st = .idle ∧ s.cfg.crcEn = true ∧
      tail = [crc8 Config.crc [d0, d1, d2, d3]] ∧ s.answers = [.ok [], .ok (d0 :: d1 :: d2 :: d3 :: tail)]) ∧
    ∃ (s : State) (d0 d1 d2 d3 : Byte) (tail : List Byte), s.st = .idle ∧ s.cfg.crcEn = false ∧
      tail = [] ∧ s.answers = [.ok [], .ok (d0 :: d1 :: d2 :: d3 :: tail)] :=
  ⟨⟨scripted true [.ok [], .ok [1, 2, 3, 4, crc8 Config.crc [1, 2, 3, 4]]], 1, 2, 3, 4, _, rfl, rfl, rfl, rfl⟩,
    scripted false [.ok [], .ok [1, 2, 3, 4]], 1, 2, 3, 4, _, rfl, rfl, rfl, rfl⟩

theorem test_meets_RaisingAnErrorReturnsToIdle :
    ∃ (s : State) (r : Request) (rs : List Request) (i : Instr), s.requests = r :: rs ∧ decodeRequest r = .ok i :=
  ⟨waiting, ⟨0b101#3, []⟩, [], .rpReadRaw, rfl, rfl⟩

/-- An operation of each kind that ends. -/
theorem test_meets_EachOperationEndsInItsOwnResults :
    (∃ (f : List Byte) (s t : State), exec (.crcCompute f) s = .next t ∧ t.st = .idle) ∧
    (∃ (f : List Byte) (k : Byte) (s t : State), exec (.crcValidate f k) s = .next t ∧ t.st = .idle) ∧
    (∃ (d : Byte) (s t : State), exec (.asmDecode d d d d) s = .next t ∧ t.st = .idle) ∧
    (∃ (bs : List Byte) (s t : State), exec (.rpWriteCommand bs) s = .next t ∧ t.st = .idle) ∧
    (∃ s t : State, exec .rpReadFrame s = .next t ∧ t.st = .idle) ∧
    ∃ s t : State, exec .rpReadRaw s = .next t ∧ t.st = .idle :=
  ⟨⟨[], State.reset, _, rfl, rfl⟩, ⟨[], 0, State.reset, _, rfl, rfl⟩, ⟨0, State.reset, _, rfl, rfl⟩,
    ⟨[], scripted false [.ok []], _, rfl, rfl⟩, ⟨scripted false [.busError], _, rfl, rfl⟩,
    scripted false [.busError], _, rfl, rfl⟩

theorem test_meets_PureOperationsFrame :
    (∃ (frame : List Byte) (s t : State), exec (.crcCompute frame) s = .next t) ∧
    (∃ (frame : List Byte) (k : Byte) (s t : State), exec (.crcValidate frame k) s = .next t) ∧
    ∃ (d0 d1 d2 d3 : Byte) (s t : State), exec (.asmDecode d0 d1 d2 d3) s = .next t :=
  ⟨⟨[], State.reset, _, rfl⟩, ⟨[], 0, State.reset, _, rfl⟩, 0, 0, 0, 0, State.reset, _, rfl⟩

/-- Each bus operation, one that ends and one that waits. -/
theorem test_meets_BusOperationsFrame :
    (∃ (bytes : List Byte) (s t : State), exec (.rpWriteCommand bytes) s = .next t ∧ t.st = .transacting) ∧
    (∃ s t : State, exec .rpReadFrame s = .next t ∧ t.st = .transacting) ∧
    (∃ s t : State, exec .rpReadRaw s = .next t ∧ t.st = .transacting) ∧
    ∃ s t : State, exec .rpReadRaw s = .next t ∧ t.st = .idle :=
  ⟨⟨[0xAA], State.reset, _, rfl, rfl⟩, ⟨State.reset, _, rfl, rfl⟩, ⟨scripted true [.ok []], _, rfl, rfl⟩,
    scripted true [.ok [], .ok []], _, rfl, rfl⟩

/-- A step from Idle and a step from Transacting. -/
theorem test_meets_ConfigurationIsImmutable :
    (∃ s t : State, s.st = .idle ∧ step s = .next t) ∧ ∃ s t : State, s.st = .transacting ∧ step s = .next t :=
  ⟨⟨asked [⟨0b101#3, []⟩], _, rfl, rfl⟩, waiting, _, rfl, rfl⟩

theorem test_meets_FreshInstanceMeetsInvariant : FreshInstance State.reset ∧ FreshInstance (scripted true [.ok []]) :=
  ⟨⟨{}, State.reset, rfl, rfl⟩, { enCrc := some true }, _, rfl, rfl⟩

theorem test_meets_StepKeepsTransactionInvariant :
    (∃ s t : State, s.Inv ∧ s.st = .idle ∧ step s = .next t) ∧
    (∃ s t : State, s.Inv ∧ s.st = .transacting ∧ step s = .next t) ∧
    ∃ s t : State, s.Inv ∧ s.ph = some .read ∧ step s = .next t :=
  ⟨⟨State.reset, _, scripted_inv false [], rfl, rfl⟩, ⟨waiting, _, waiting_inv, rfl, rfl⟩,
    waitingForFrame, _, waitingForFrame_inv, rfl, rfl⟩

/-- A history with both kinds of event, the read answered in full. -/
theorem test_meets_StepKeepsEventHistoryOfInstance :
    ∃ s t : State, s.HistoryInv ∧ s.history.length = 2 ∧ step s = .next t :=
  ⟨{ scripted true [] with
      history := [.write 0x6C [0xAA] (.ok []), .read 0x6C 5 (.ok [1, 2, 3, 4, 5])] }, _,
    by
      intro e he
      rcases List.mem_cons.1 he with rfl | he
      · exact ⟨rfl, rfl⟩
      · rcases List.mem_singleton.1 he with rfl
        exact ⟨rfl, rfl, rfl⟩, rfl, rfl⟩

/-- A buffer with a value in its last cell. -/
theorem test_meets_StepKeepsBufferCanonical :
    ∃ s t : State, Memory.wf s.buf = true ∧ s.buf = [(0, 0xFF), (4, 0x01)] ∧ step s = .next t :=
  ⟨{ State.reset with buf := [(0, 0xFF), (4, 0x01)] }, _, by decide, rfl, rfl⟩

theorem test_meets_NoTransientIsReadBeforeItIsWritten : waiting.Inv ∧ (scripted true [.ok []]).Inv :=
  ⟨waiting_inv, scripted_inv _ _⟩

/-- Each register without a value, the last cell and the first index beyond it, and a waiting operation without a
phase. -/
theorem test_meets_ReadingAnEmptyRegisterIsAFault :
    (State.reset.ph = none ∧ State.reset.crc = none ∧ State.reset.cnt = none) ∧
    (4 < 5 ∧ Memory.read State.reset.buf 4 = none) ∧ 5 ≤ 5 ∧
    ∃ s : State, s.st = .transacting ∧ s.inProgress = some .readRaw ∧ s.ph = none :=
  ⟨⟨rfl, rfl, rfl⟩, ⟨by decide, rfl⟩, by decide, { waitingForFrame with ph := none }, rfl, rfl, rfl⟩

theorem test_meets_FilledBufferHoldsTheAnswer :
    ([] : List Byte).length ≤ 5 ∧ ([1, 2, 3, 4, 5] : List Byte).length ≤ 5 := by decide

/-! ### Runs, and the premises of 70_reset_and_hazards.md R167

Each premise by a run that meets it and one that does not. -/

/-- `RP.READ_RAW`, taken before any answer is there; both answers then come, each before a step. -/
def answeredRun : List Move :=
  [.present ⟨0b101#3, []⟩, .answer (.ok []), .step, .answer (.ok [0x79, 0x39, 0x2B, 0x4E]), .step]

/-- The same operation with another device's transaction between its write and its read (R158). -/
def interruptedRun : List Move :=
  [.answer (.ok []), .present ⟨0b101#3, []⟩, .otherTransaction, .answer (.ok [0x79, 0x39, 0x2B, 0x4E]), .step]

/-- V-P1, answered late. -/
theorem test_answered_run :
    (runMoves answeredRun State.reset).map State.results = some [.ok (.reading ⟨31033, 11086⟩)] := rfl

theorem test_meets_RunsKeepTheInvariants :
    ∃ (moves : List Move) (s t : State), s.Inv ∧ s.HistoryInv ∧ runMoves moves s = some t ∧ t.st = .transacting :=
  ⟨[.submit [⟨0b100#3, []⟩], .step, .otherTransaction, .withdraw], State.reset, _, scripted_inv false [],
    fun _ h => (by cases h), rfl, rfl⟩

theorem answeredRun_answered : TransportAnswers answeredRun State.reset :=
  ⟨AnswersAdmissible.of_runMoves rfl, fun _ h => by cases h; rfl⟩

theorem test_meets_AnsweredRunEndsAtIdle :
    ∃ (moves : List Move) (s t : State), FreshInstance s ∧ TransportAnswers moves s ∧ runMoves moves s = some t ∧
      t.history.length = 2 :=
  ⟨answeredRun, State.reset, _, ⟨{}, State.reset, rfl, rfl⟩, answeredRun_answered, rfl, rfl⟩

theorem test_meets_NoConstructionOrRequestWhileTransacting :
    waiting.st = .transacting ∧ ∃ t, runMoves (answeredRun ++ [.construct {}]) State.reset = some t := ⟨rfl, _, rfl⟩

theorem test_TransportAnswers_fails :
    ¬TransportAnswers [.present ⟨0b100#3, []⟩] State.reset ∧
    ¬TransportAnswers [.answer (.ok [0x00]), .present ⟨0b101#3, []⟩] State.reset :=
  ⟨fun h => (by cases h.2 _ rfl), fun h => h.1.2.1.2 _ rfl rfl⟩

theorem test_NoResetInFlight :
    NoResetInFlight [.construct {}] State.reset ∧ ¬NoResetInFlight [.construct {}] waiting :=
  ⟨And.intro (fun _ _ => rfl) trivial, fun h => by cases h.1 _ rfl⟩

theorem test_OneCallerAtATime :
    OneCallerAtATime [.present ⟨0b101#3, []⟩, .submit [⟨0b101#3, []⟩]] State.reset ∧ ¬OneCallerAtATime [.present ⟨0b000#3, [.seq []]⟩] waiting :=
  ⟨And.intro (fun _ _ => rfl) (And.intro (fun _ h => nomatch h) trivial), fun h => by cases h.1 _ rfl⟩

theorem test_BusExclusive_fails : ¬BusExclusive interruptedRun State.reset := fun h => by
  cases h [] [.other] [] _ _ _ _ _ _ rfl fun _ hx => List.mem_singleton.1 hx

theorem test_BusExclusive_met : BusExclusive (.otherTransaction :: answeredRun) State.reset := by
  intro before between after a bs w b n ans h _
  have ht : traffic (.otherTransaction :: answeredRun) State.reset =
      [.other, .own (.write 0x6C Config.cmdSelect (.ok [])), .own (.read 0x6C 4 (.ok [0x79, 0x39, 0x2B, 0x4E]))] := rfl
  rw [ht] at h
  rcases before with _ | ⟨_, _ | ⟨_, _ | ⟨_, _ | ⟨_, _⟩⟩⟩⟩ <;> rcases between with _ | ⟨_, _ | ⟨_, _⟩⟩ <;> simp_all

end Sys2Proof.Tests
end

section
/-! PROOFS. What the block never reads (10_state.md R24, R28, R34): a veil rewrites the stored-only fields of `CFG` and
what was delivered and recorded earlier. Each shared operation commutes with it, then each operation, then the step. -/

namespace Sys2Proof.Machine

/-- A change of what the block stores and never reads: a rewriting of `CFG` that keeps the two fields in use, and events
and results of earlier operations. -/
structure Veil where
  cfg : Cfg → Cfg
  events : List BusEvent
  results : List OpResult
  crcEn_cfg : ∀ c, (cfg c).crcEn = c.crcEn
  i2cAddress_cfg : ∀ c, (cfg c).i2cAddress = c.i2cAddress

/-- The state under the veil. -/
def Veil.put (v : Veil) (s : State) : State :=
  { s with cfg := v.cfg s.cfg, history := v.events ++ s.history, results := v.results ++ s.results }

/-- The outcome under the veil: the next state is veiled, a fault or a refusal is the same. -/
def Veil.out (v : Veil) : Result → Result
  | .next t => .next (v.put t)
  | .fault f => .fault f
  | .refused why => .refused why

namespace Veil

variable (v : Veil) (s : State)

@[simp] theorem put_st : (v.put s).st = s.st := rfl
@[simp] theorem put_ph : (v.put s).ph = s.ph := rfl
@[simp] theorem put_crc : (v.put s).crc = s.crc := rfl
@[simp] theorem put_buf : (v.put s).buf = s.buf := rfl
@[simp] theorem put_cnt : (v.put s).cnt = s.cnt := rfl
@[simp] theorem put_inProgress : (v.put s).inProgress = s.inProgress := rfl
@[simp] theorem put_call : (v.put s).call = s.call := rfl
@[simp] theorem put_requests : (v.put s).requests = s.requests := rfl
@[simp] theorem put_answers : (v.put s).answers = s.answers := rfl
@[simp] theorem put_crcEn : (v.put s).cfg.crcEn = s.cfg.crcEn := v.crcEn_cfg s.cfg
@[simp] theorem put_i2cAddress : (v.put s).cfg.i2cAddress = s.cfg.i2cAddress := v.i2cAddress_cfg s.cfg

@[simp] theorem put_readCall : (v.put s).cfg.readCall = s.cfg.readCall := by simp [Cfg.readCall]

@[simp] theorem put_selectCall : (v.put s).cfg.selectCall = s.cfg.selectCall := by simp [Cfg.selectCall]

/-! The named updates of the state. -/

theorem begin_put (op : BusOperation) : (v.put s).begin op = v.put (s.begin op) := rfl

theorem setPh_put (p : Phase) : (v.put s).setPh p = v.put (s.setPh p) := rfl

theorem filled_put (bs : List Byte) : (v.put s).filled bs = v.put (s.filled bs) := rfl

theorem crcRun_put (frame : List Byte) : (v.put s).crcRun frame = v.put (s.crcRun frame) := by
  simp only [State.crcRun_eq]; rfl

theorem deliver_put (r : OpResult) : (v.put s).deliver r = v.put (s.deliver r) := by
  simp [put, State.deliver]

theorem answered_put (c : BusCall) (a : Answer) (rest : List Answer) :
    (v.put s).answered c a rest = v.put (s.answered c a rest) := by
  simp [put, State.answered]

/-! The shared operations. A continuation that commutes with the veil makes one that does. -/

variable {v s}

/-- A branch whose two sides commute with the veil commutes with it. -/
theorem ite_put {p : Prop} [Decidable p] {a b a' b' : Result} (ha : a' = v.out a) (hb : b' = v.out b) :
    (if p then a' else b') = v.out (if p then a else b) := by
  split_ifs
  · exact ha
  · exact hb

theorem whenIdle_put {k : State → Result} (hk : ∀ u, k (v.put u) = v.out (k u)) :
    whenIdle k (v.put s) = v.out (whenIdle k s) := by
  rw [whenIdle, whenIdle, put_st]
  cases s.st with
  | idle => exact hk s
  | transacting => rfl

theorem await_put (c : BusCall) {k : Answer → State → Result} (hk : ∀ a u, k a (v.put u) = v.out (k a u)) :
    await c k (v.put s) = v.out (await c k s) := by
  rw [await, await, put_answers]
  cases s.answers with
  | nil => rfl
  | cons a rest =>
    simp only [answered_put]
    exact ite_put (hk a _) rfl

theorem finish_put (r : OpResult) : finish r (v.put s) = v.out (finish r s) := by
  simp [finish, put, out, State.dropTransients]

theorem endCrc_put (x : OpValue) : endCrc x (v.put s) = v.out (endCrc x s) := by
  simp [endCrc, put, out]

theorem readBuf_put (i : Nat) {k k' : Byte → Result} (hk : ∀ b, k' b = v.out (k b)) :
    readBuf i k' (v.put s) = v.out (readBuf i k s) := by
  rw [readBuf, readBuf, put_buf]
  split_ifs
  · cases Memory.read s.buf i with
    | some b => exact hk b
    | none => rfl
  · rfl

theorem readBufs_put (is : List Nat) {k k' : List Byte → Result} (hk : ∀ bs, k' bs = v.out (k bs)) :
    readBufs is k' (v.put s) = v.out (readBufs is k s) := by
  induction is generalizing k k' with
  | nil => exact hk []
  | cons i is ih => exact readBuf_put i fun b => ih fun bs => hk (b :: bs)

theorem readPh_put {k k' : Phase → Result} (hk : ∀ p, k' p = v.out (k p)) :
    readPh k' (v.put s) = v.out (readPh k s) := by
  rw [readPh, readPh, put_ph]
  cases s.ph with
  | some p => exact hk p
  | none => rfl

theorem readCrc_put {k k' : Byte → Result} (hk : ∀ c, k' c = v.out (k c)) :
    readCrc k' (v.put s) = v.out (readCrc k s) := by
  rw [readCrc, readCrc, put_crc]
  cases s.crc with
  | some c => exact hk c
  | none => rfl

theorem readCnt_put {k k' : BitVec 3 → Result} (hk : ∀ n, k' n = v.out (k n)) :
    readCnt k' (v.put s) = v.out (readCnt k s) := by
  rw [readCnt, readCnt, put_cnt]
  cases s.cnt with
  | some n => exact hk n
  | none => rfl

theorem fillBuf_put (bs : List Byte) {k : State → Result} (hk : ∀ u, k (v.put u) = v.out (k u)) :
    fillBuf bs k (v.put s) = v.out (fillBuf bs k s) := by
  rw [fillBuf, fillBuf, filled_put]
  split_ifs
  · exact hk _
  · rfl

/-! The operations. -/

variable (v s)

theorem execCrcCompute_put (frame : List Byte) :
    execCrcCompute frame (v.put s) = v.out (execCrcCompute frame s) :=
  whenIdle_put fun u => by rw [crcRun_put]; exact readCrc_put fun _ => endCrc_put _

theorem execCrcValidate_put (frame : List Byte) (expected : Byte) :
    execCrcValidate frame expected (v.put s) = v.out (execCrcValidate frame expected s) :=
  whenIdle_put fun u => by rw [crcRun_put]; exact readCrc_put fun _ => endCrc_put _

theorem execAsmDecode_put (d0 d1 d2 d3 : Byte) :
    execAsmDecode d0 d1 d2 d3 (v.put s) = v.out (execAsmDecode d0 d1 d2 d3 s) :=
  whenIdle_put fun u => congrArg Host.Outcome.next (deliver_put v u _)

theorem writeCommand_put (bytes : List Byte) : writeCommand bytes (v.put s) = v.out (writeCommand bytes s) := by
  rw [writeCommand, put_i2cAddress]
  refine await_put _ fun a u => ?_
  cases a with
  | ok _ => exact finish_put _
  | busError => exact finish_put _

theorem receiveFrame_put {k : State → Result} (hk : ∀ u, k (v.put u) = v.out (k u)) (a : Answer) :
    receiveFrame k a (v.put s) = v.out (receiveFrame k a s) := by
  cases a with
  | busError => exact finish_put _
  | ok bs =>
    rw [receiveFrame, receiveFrame]
    refine fillBuf_put bs fun u => ?_
    rw [put_crcEn]
    exact readCnt_put fun n => ite_put (finish_put _) (hk u)

theorem returnFrame_put : returnFrame (v.put s) = v.out (returnFrame s) := by
  rw [returnFrame, put_crcEn]
  exact readBufs_put _ fun _ => finish_put _

theorem readFrame_put : readFrame (v.put s) = v.out (readFrame s) := by
  rw [readFrame, put_readCall]
  exact await_put _ fun a u => receiveFrame_put v u (returnFrame_put v) a

theorem rawDecode_put : rawDecode (v.put s) = v.out (rawDecode s) :=
  readBuf_put 0 fun _ => readBuf_put 1 fun _ => readBuf_put 2 fun _ => readBuf_put 3 fun _ => finish_put _

theorem rawCheck_put : rawCheck (v.put s) = v.out (rawCheck s) := by
  rw [rawCheck, put_crcEn]
  refine ite_put (readBufs_put _ fun data => ?_) (rawDecode_put v (s.setPh .decode))
  rw [crcRun_put]
  exact readCrc_put fun _ => readBuf_put _ fun _ =>
    ite_put (rawDecode_put v ((s.crcRun data).setPh .decode)) (finish_put _)

theorem rawRead_put : rawRead (v.put s) = v.out (rawRead s) := by
  rw [rawRead, put_readCall]
  exact await_put _ fun a u => receiveFrame_put v u (fun w => rawCheck_put v (w.setPh .check)) a

theorem rawWrite_put : rawWrite (v.put s) = v.out (rawWrite s) := by
  rw [rawWrite, put_selectCall]
  refine await_put _ fun a u => ?_
  cases a with
  | ok _ => exact rawRead_put v (u.setPh .read)
  | busError => exact finish_put _

theorem execRpWriteCommand_put (bytes : List Byte) :
    execRpWriteCommand bytes (v.put s) = v.out (execRpWriteCommand bytes s) :=
  whenIdle_put fun u => writeCommand_put v (u.begin .writeCommand) bytes

theorem execRpReadFrame_put : execRpReadFrame (v.put s) = v.out (execRpReadFrame s) :=
  whenIdle_put fun u => readFrame_put v (u.begin .readFrame)

theorem execRpReadRaw_put : execRpReadRaw (v.put s) = v.out (execRpReadRaw s) :=
  whenIdle_put fun u => rawWrite_put v ((u.begin .readRaw).setPh .write)

/-! Every operation, the operation port, and the step. -/

theorem exec_put (i : Instr) : exec i (v.put s) = v.out (exec i s) := by
  cases i with
  | crcCompute frame => exact execCrcCompute_put v s frame
  | crcValidate frame expected => exact execCrcValidate_put v s frame expected
  | asmDecode d0 d1 d2 d3 => exact execAsmDecode_put v s d0 d1 d2 d3
  | rpWriteCommand bytes => exact execRpWriteCommand_put v s bytes
  | rpReadFrame => exact execRpReadFrame_put v s
  | rpReadRaw => exact execRpReadRaw_put v s
  | reserved110 => rfl
  | reserved111 => rfl

theorem operationPort_put (r : Request) : operationPort r (v.put s) = v.out (operationPort r s) := by
  rw [operationPort, operationPort]
  cases decodeRequest r with
  | error e => rfl
  | ok i => exact exec_put v s i

theorem idleStep_put : idleStep (v.put s) = v.out (idleStep s) := by
  rw [idleStep, idleStep, put_requests]
  cases s.requests with
  | nil => rfl
  | cons r rs => exact operationPort_put v { s with requests := rs } r

theorem resumeWriteCommand_put : resumeWriteCommand (v.put s) = v.out (resumeWriteCommand s) := by
  rw [resumeWriteCommand, resumeWriteCommand, put_call]
  rcases s.call with _ | ⟨_, bytes⟩ | _
  · rfl
  · exact writeCommand_put v s bytes
  · rfl

theorem rawPhase_put (p : Phase) : rawPhase p (v.put s) = v.out (rawPhase p s) := by
  cases p with
  | write => exact rawWrite_put v s
  | read => exact rawRead_put v s
  | check => exact rawCheck_put v s
  | decode => exact rawDecode_put v s

theorem resume_put : resume (v.put s) = v.out (resume s) := by
  rw [resume, resume, put_inProgress]
  rcases s.inProgress with _ | _ | _ | _
  · rfl
  · exact resumeWriteCommand_put v s
  · exact readFrame_put v s
  · exact readPh_put fun p => rawPhase_put v s p

theorem step_put : step (v.put s) = v.out (step s) := by
  rw [step, step, put_st]
  cases s.st with
  | idle => exact idleStep_put v s
  | transacting => exact resume_put v s

end Veil

/-- Settles O43: the two fields are a veil over `CFG`. -/
theorem passThroughFieldsAreNeverRead : Obligations.PassThroughFieldsAreNeverRead := by
  intro s range offset
  exact Veil.step_put
    ⟨fun c => { c with pressureRange := range, offset := offset }, [], [], fun _ => rfl, fun _ => rfl⟩ s

/-- Settles O44: earlier events and results are a veil over the history and the results. -/
theorem earlierResultsAreNeverRead : Obligations.EarlierResultsAreNeverRead := by
  intro s oldEvents oldResults
  exact Veil.step_put ⟨id, oldEvents, oldResults, fun _ => rfl, fun _ => rfl⟩ s

end Sys2Proof.Machine
end

section
/-! PROOFS. What the block can do, said once: a bus access from its call on, each operation from Idle, and an operation
that goes on. Later proofs take these relations apart and do not unfold the operations. -/

namespace Sys2Proof.Machine

variable {s t : State}

/-! ### A bus access from its call on -/

/-- The result of a write that is one operation: `RP.WRITE_COMMAND`, or a failed write phase of `RP.READ_RAW`
(R110, R116). -/
def writeResult : Answer → OpResult
  | .ok _ => .ok .unit
  | .busError => .err .busError

/-- Everything an operation can do from the issue of its last call `c` on: it waits, it ends by the answer, or the port
cannot carry the answer (R47, R122). It never faults. -/
inductive Access (c : BusCall) (result : Answer → OpResult) (s : State) : Result → Prop
  | waits (h : s.answers = []) : Access c result s (.next { s with call := some c })
  | ends {a : Answer} {rest : List Answer} (h : s.answers = a :: rest) (ha : c.admits a = true) :
      Access c result s (.next (s.ended (result a) rest [c.event a]))
  | notCarried {a : Answer} {rest : List Answer} (h : s.answers = a :: rest) (ha : c.admits a = false) :
      Access c result s (.refused .inadmissibleAnswer)

/-- `RP.READ_RAW` in its read phase, its write answered `Ok` (R116). -/
def State.selected (rest : List Answer) (s : State) : State :=
  (s.answered s.cfg.selectCall (.ok []) rest).setPh .read

/-- Everything `RP.READ_RAW` can do from the issue of its write on: with that write answered `Ok` it goes on to its read,
with anything else it gets no further than the write. -/
inductive RawAccess (s : State) : Result → Prop
  | write {o : Result} (hno : ∀ rest, s.answers ≠ .ok [] :: rest) (h : Access s.cfg.selectCall writeResult s o) :
      RawAccess s o
  | read {o : Result} {rest : List Answer} (h : s.answers = .ok [] :: rest)
      (hr : Access s.cfg.readCall (readResult s.cfg (rawResult s.cfg)) (s.selected rest) o) : RawAccess s o

/-- An outcome is that of a bus access when it is so for no answer at hand and for one. -/
theorem Access.of_answers {c : BusCall} {result : Answer → OpResult} {o : Result}
    (hnil : s.answers = [] → o = .next { s with call := some c })
    (hcons : ∀ a rest, s.answers = a :: rest →
      o = if c.admits a then .next (s.ended (result a) rest [c.event a]) else .refused .inadmissibleAnswer) :
    Access c result s o := by
  rcases h : s.answers with _ | ⟨a, rest⟩
  · exact hnil h ▸ .waits h
  · rw [hcons a rest h]
    cases ha : c.admits a with
    | true => exact .ends h ha
    | false => exact .notCarried h ha

theorem writeCommand_access (bytes : List Byte) (s : State) :
    Access (.write s.cfg.i2cAddress bytes) writeResult s (writeCommand bytes s) :=
  .of_answers (fun h => by rw [writeCommand_eq, h]) fun a rest h => by
    rw [writeCommand_eq, h]; cases a <;> rfl

theorem readFrame_access (s : State) :
    Access s.cfg.readCall (readResult s.cfg fun bs => .ok (.frame bs)) s (readFrame s) :=
  .of_answers (fun h => by rw [readFrame_eq, h]) fun a rest h => by rw [readFrame_eq, h]

theorem rawRead_access (s : State) :
    Access s.cfg.readCall (readResult s.cfg (rawResult s.cfg)) s (rawRead s) :=
  .of_answers (fun h => by rw [rawRead_eq, h]) fun a rest h => by rw [rawRead_eq, h]

theorem rawWrite_access (s : State) : RawAccess s (rawWrite s) := by
  rw [rawWrite_eq]
  split
  next h => exact .write (by simp [h]) (.waits h)
  next rest h => exact .write (by simp [h]) (.ends h rfl)
  next rest h => exact .read h (rawRead_access (s.selected rest))
  next b bs rest h =>
    exact .write (by simp [h]) (.notCarried h (by simp [Cfg.selectCall, BusCall.admits, BusCall.limit]))

section Access

variable {c : BusCall} {result : Answer → OpResult}

theorem Access.ne_fault {f : Fault} : ¬ Access c result s (.fault f) := nofun

theorem Access.refused {why : Refusal} (h : Access c result s (.refused why)) : why = .inadmissibleAnswer := by
  cases h; rfl

theorem Access.cfg (h : Access c result s (.next t)) : t.cfg = s.cfg := by cases h <;> rfl

theorem Access.requests (h : Access c result s (.next t)) : t.requests = s.requests := by cases h <;> rfl

end Access

theorem RawAccess.ne_fault {f : Fault} : ¬ RawAccess s (.fault f)
  | .write _ h => h.ne_fault
  | .read _ h => h.ne_fault

theorem RawAccess.refused {why : Refusal} : RawAccess s (.refused why) → why = .inadmissibleAnswer
  | .write _ h => h.refused
  | .read _ h => h.refused

theorem RawAccess.cfg : RawAccess s (.next t) → t.cfg = s.cfg
  | .write _ h => h.cfg
  | .read _ h => h.cfg

theorem RawAccess.requests : RawAccess s (.next t) → t.requests = s.requests
  | .write _ h => h.requests
  | .read _ h => h.requests

/-! ### An operation from Idle -/

/-- Everything an operation can do that the port takes at Idle. -/
inductive Ran (s : State) : Instr → Result → Prop
  | computed (frame : List Byte) :
      Ran s (.crcCompute frame)
        (.next { s with crc := none, results := s.results ++ [.ok (.byte (crc8 Config.crc frame))] })
  | validated (frame : List Byte) (expected : Byte) :
      Ran s (.crcValidate frame expected)
        (.next { s with
          crc := none
          results := s.results ++ [.ok (.bool (checksumsAgree (crc8 Config.crc frame) expected))] })
  | decoded (d0 d1 d2 d3 : Byte) :
      Ran s (.asmDecode d0 d1 d2 d3) (.next (s.deliver (.ok (.reading (decodeReading d0 d1 d2 d3)))))
  | wrote (bytes : List Byte) {o : Result}
      (h : Access (.write s.cfg.i2cAddress bytes) writeResult (s.begin .writeCommand) o) :
      Ran s (.rpWriteCommand bytes) o
  | readFrame {o : Result}
      (h : Access s.cfg.readCall (readResult s.cfg fun bs => .ok (.frame bs)) (s.begin .readFrame) o) :
      Ran s .rpReadFrame o
  | readRaw {o : Result} (h : RawAccess ((s.begin .readRaw).setPh .write) o) : Ran s .rpReadRaw o
  | reserved {i : Instr} (hi : i.wellFormed = false) : Ran s i (.refused .reservedCode)

theorem exec_crcCompute (frame : List Byte) (h : s.st = .idle) :
    exec (.crcCompute frame) s =
      .next { s with crc := none, results := s.results ++ [.ok (.byte (crc8 Config.crc frame))] } := by
  rw [exec, execCrcCompute, whenIdle_idle _ _ h, readCrc_ok _ _ _ (State.crcRun_crc frame s), endCrc, State.crcRun_eq]

theorem exec_crcValidate (frame : List Byte) (expected : Byte) (h : s.st = .idle) :
    exec (.crcValidate frame expected) s =
      .next { s with
        crc := none
        results := s.results ++ [.ok (.bool (checksumsAgree (crc8 Config.crc frame) expected))] } := by
  rw [exec, execCrcValidate, whenIdle_idle _ _ h, readCrc_ok _ _ _ (State.crcRun_crc frame s), endCrc, State.crcRun_eq]

theorem exec_asmDecode (d0 d1 d2 d3 : Byte) (h : s.st = .idle) :
    exec (.asmDecode d0 d1 d2 d3) s = .next (s.deliver (.ok (.reading (decodeReading d0 d1 d2 d3)))) := by
  rw [exec, execAsmDecode, whenIdle_idle _ _ h]

theorem exec_rpWriteCommand (bytes : List Byte) (h : s.st = .idle) :
    exec (.rpWriteCommand bytes) s = writeCommand bytes (s.begin .writeCommand) := by
  rw [exec, execRpWriteCommand, whenIdle_idle _ _ h]

theorem exec_rpReadFrame (h : s.st = .idle) : exec .rpReadFrame s = readFrame (s.begin .readFrame) := by
  rw [exec, execRpReadFrame, whenIdle_idle _ _ h]

theorem exec_rpReadRaw (h : s.st = .idle) :
    exec .rpReadRaw s = rawWrite ((s.begin .readRaw).setPh .write) := by
  rw [exec, execRpReadRaw, whenIdle_idle _ _ h]

/-- What `exec` does at Idle is one of the above. -/
theorem exec_ran (i : Instr) (h : s.st = .idle) : Ran s i (exec i s) := by
  cases i with
  | crcCompute frame => rw [exec_crcCompute frame h]; exact .computed frame
  | crcValidate frame expected => rw [exec_crcValidate frame expected h]; exact .validated frame expected
  | asmDecode d0 d1 d2 d3 => rw [exec_asmDecode d0 d1 d2 d3 h]; exact .decoded d0 d1 d2 d3
  | rpWriteCommand bytes =>
    rw [exec_rpWriteCommand bytes h]
    exact .wrote bytes (writeCommand_access bytes (s.begin .writeCommand))
  | rpReadFrame => rw [exec_rpReadFrame h]; exact .readFrame (readFrame_access (s.begin .readFrame))
  | rpReadRaw => rw [exec_rpReadRaw h]; exact .readRaw (rawWrite_access _)
  | reserved110 => exact .reserved rfl
  | reserved111 => exact .reserved rfl

/-- While Transacting each of the six operations is refused (R29). -/
theorem exec_transacting {i : Instr} (hi : i.wellFormed = true) (h : s.st = .transacting) :
    exec i s = .refused .transacting := by
  cases i with
  | crcCompute => rw [exec, execCrcCompute, whenIdle_transacting _ _ h]
  | crcValidate => rw [exec, execCrcValidate, whenIdle_transacting _ _ h]
  | asmDecode => rw [exec, execAsmDecode, whenIdle_transacting _ _ h]
  | rpWriteCommand => rw [exec, execRpWriteCommand, whenIdle_transacting _ _ h]
  | rpReadFrame => rw [exec, execRpReadFrame, whenIdle_transacting _ _ h]
  | rpReadRaw => rw [exec, execRpReadRaw, whenIdle_transacting _ _ h]
  | reserved110 | reserved111 => cases hi

/-- A reserved code is refused in every state (R69). -/
theorem exec_reserved {i : Instr} (hi : i.wellFormed = false) : exec i s = .refused .reservedCode := by
  cases i with
  | crcCompute | crcValidate | asmDecode | rpWriteCommand | rpReadFrame | rpReadRaw => cases hi
  | reserved110 | reserved111 => rfl

/-- While Transacting nothing is taken, and the refusal is no matter of a transport answer. -/
theorem exec_refused_of_transacting (i : Instr) (h : s.st = .transacting) :
    ∃ why, exec i s = .refused why ∧ why ≠ .inadmissibleAnswer := by
  cases hi : i.wellFormed with
  | true => exact ⟨_, exec_transacting hi h, nofun⟩
  | false => exact ⟨_, exec_reserved hi, nofun⟩

/-- An operation that makes a step made it from Idle (R29). -/
theorem exec_next {i : Instr} (h : exec i s = .next t) : s.st = .idle ∧ Ran s i (.next t) := by
  cases hst : s.st with
  | idle => exact ⟨rfl, h ▸ exec_ran i hst⟩
  | transacting =>
    obtain ⟨why, hr, -⟩ := exec_refused_of_transacting i hst
    cases h.symm.trans hr

theorem Ran.ne_fault {i : Instr} {f : Fault} : ¬ Ran s i (.fault f)
  | .wrote _ h => h.ne_fault
  | .readFrame h => h.ne_fault
  | .readRaw h => h.ne_fault

/-- From no state at all is an operation a fault. -/
theorem exec_ne_fault (i : Instr) (s : State) (f : Fault) : exec i s ≠ .fault f := by
  intro h
  cases hst : s.st with
  | idle => exact (h ▸ exec_ran i hst : Ran s i (.fault f)).ne_fault
  | transacting =>
    obtain ⟨why, hr, -⟩ := exec_refused_of_transacting i hst
    cases h.symm.trans hr

/-- At Idle a well-formed operation is refused only for an answer the port cannot carry (R47). -/
theorem Ran.refused {i : Instr} {why : Refusal} (hi : i.wellFormed = true) :
    Ran s i (.refused why) → why = .inadmissibleAnswer
  | .wrote _ h => h.refused
  | .readFrame h => h.refused
  | .readRaw h => h.refused
  | .reserved hno => by rw [hi] at hno; cases hno

theorem Ran.cfg {i : Instr} : Ran s i (.next t) → t.cfg = s.cfg
  | .computed _ => rfl
  | .validated _ _ => rfl
  | .decoded _ _ _ _ => rfl
  | .wrote _ h => h.cfg
  | .readFrame h => h.cfg
  | .readRaw h => h.cfg

/-! ### An operation that goes on -/

/-- What a phase without a bus access can do: the operation ends, or a register without a value is read. -/
inductive LocalPhase (s : State) : Result → Prop
  | ends (r : OpResult) : LocalPhase s (.next (s.ended r s.answers []))
  | faults (f : Fault) : LocalPhase s (.fault f)

theorem LocalPhase.of_finish (r : OpResult) (s : State) : LocalPhase s (finish r s) := finish_eq r s ▸ .ends r

/-- The phase register does not matter to what an ended operation leaves. -/
theorem LocalPhase.of_setPh {p : Phase} {o : Result} (h : LocalPhase (s.setPh p) o) : LocalPhase s o := by
  cases h with
  | ends r => exact .ends r
  | faults f => exact .faults f

/-- Nor does what the register loop leaves in `CRC`. -/
theorem LocalPhase.of_crcRun {data : List Byte} {o : Result} (h : LocalPhase (s.crcRun data) o) : LocalPhase s o := by
  cases h with
  | ends r => rw [ended_crcRun, State.crcRun_answers]; exact .ends r
  | faults f => exact .faults f

/-- A read of a buffer cell goes on with a byte or is a fault. -/
theorem readBuf_of_forall {P : Result → Prop} {i : Nat} {k : Byte → Result} (hf : ∀ f, P (.fault f))
    (hk : ∀ b, P (k b)) : P (readBuf i k s) := by
  rw [readBuf]
  split_ifs
  · split
    · exact hk _
    · exact hf _
  · exact hf _

theorem readBufs_of_forall {P : Result → Prop} {is : List Nat} {k : List Byte → Result} (hf : ∀ f, P (.fault f))
    (hk : ∀ bs, P (k bs)) : P (readBufs is k s) := by
  induction is generalizing k with
  | nil => exact hk []
  | cons i is ih => exact readBuf_of_forall hf fun b => ih fun bs => hk (b :: bs)

theorem rawDecode_local (s : State) : LocalPhase s (rawDecode s) :=
  readBuf_of_forall .faults fun _ => readBuf_of_forall .faults fun _ => readBuf_of_forall .faults fun _ =>
    readBuf_of_forall .faults fun _ => .of_finish _ s

theorem rawCheck_local (s : State) : LocalPhase s (rawCheck s) := by
  rw [rawCheck]
  split_ifs
  · refine readBufs_of_forall .faults fun data => ?_
    rw [readCrc_ok _ _ _ (State.crcRun_crc data s)]
    refine readBuf_of_forall .faults fun expected => .of_crcRun (data := data) ?_
    split_ifs
    · exact (rawDecode_local _).of_setPh
    · exact .of_finish _ _
  · exact (rawDecode_local _).of_setPh

/-- Everything an operation in progress can do when it goes on. In a state the block can wait in it is one of the first
four; the other two are for states no run reaches (log entry 17). -/
inductive Resumed (s : State) : Result → Prop
  | write {address : DeviceAddress} {bytes : List Byte} {o : Result} (hp : s.inProgress = some .writeCommand)
      (hc : s.call = some (.write address bytes))
      (h : Access (.write s.cfg.i2cAddress bytes) writeResult s o) : Resumed s o
  | readFrame {o : Result} (hp : s.inProgress = some .readFrame)
      (h : Access s.cfg.readCall (readResult s.cfg fun bs => .ok (.frame bs)) s o) : Resumed s o
  | rawWrite {o : Result} (hp : s.inProgress = some .readRaw) (hph : s.ph = some .write) (h : RawAccess s o) :
      Resumed s o
  | rawRead {o : Result} (hp : s.inProgress = some .readRaw) (hph : s.ph = some .read)
      (h : Access s.cfg.readCall (readResult s.cfg (rawResult s.cfg)) s o) : Resumed s o
  | ended (hw : ¬ s.Waiting) (r : OpResult) : Resumed s (.next (s.ended r s.answers []))
  | faulted (hw : ¬ s.Waiting) (f : Fault) : Resumed s (.fault f)

theorem LocalPhase.resumed {o : Result} (hw : ¬ s.Waiting) : LocalPhase s o → Resumed s o
  | .ends r => .ended hw r
  | .faults f => .faulted hw f

theorem resumeWriteCommand_resumed (hp : s.inProgress = some .writeCommand) :
    Resumed s (resumeWriteCommand s) := by
  rw [resumeWriteCommand]
  split
  next address bytes hc => exact .write hp hc (writeCommand_access bytes s)
  next hc => exact .faulted (by simp [State.Waiting, hp, hc]) _
  next hc => exact .faulted (by simp [State.Waiting, hp, hc]) _

theorem rawPhase_resumed {p : Phase} (hp : s.inProgress = some .readRaw) (hph : s.ph = some p) :
    Resumed s (rawPhase p s) := by
  cases p with
  | write => exact .rawWrite hp hph (rawWrite_access s)
  | read => exact .rawRead hp hph (rawRead_access s)
  | check => exact (rawCheck_local s).resumed (by simp [State.Waiting, hp, hph])
  | decode => exact (rawDecode_local s).resumed (by simp [State.Waiting, hp, hph])

/-- What `resume` does is one of the above. -/
theorem resume_resumed (s : State) : Resumed s (resume s) := by
  rw [resume]
  split
  next hp => exact resumeWriteCommand_resumed hp
  next hp => exact .readFrame hp (readFrame_access s)
  next hp =>
    cases hph : s.ph with
    | some p => rw [readPh_ok _ _ _ hph]; exact rawPhase_resumed hp hph
    | none => rw [readPh_none _ _ hph]; exact .faulted (by simp [State.Waiting, hp, hph]) _
  next hp => exact .faulted (by simp [State.Waiting, hp]) _

theorem Resumed.cfg : Resumed s (.next t) → t.cfg = s.cfg
  | .write _ _ h => h.cfg
  | .readFrame _ h => h.cfg
  | .rawWrite _ _ h => h.cfg
  | .rawRead _ _ h => h.cfg
  | .ended _ _ => rfl

theorem Resumed.not_waiting_of_fault {f : Fault} : Resumed s (.fault f) → ¬ s.Waiting
  | .write _ _ h => (h.ne_fault).elim
  | .readFrame _ h => (h.ne_fault).elim
  | .rawWrite _ _ h => (h.ne_fault).elim
  | .rawRead _ _ h => (h.ne_fault).elim
  | .faulted hw _ => hw

/-! ### The operation port and the step -/

theorem operationPort_error {r : Request} {e : DecodeError} (h : decodeRequest r = .error e) (s : State) :
    operationPort r s = .refused .illFormedRequest := by rw [operationPort, h]

theorem operationPort_ok {r : Request} {i : Instr} (h : decodeRequest r = .ok i) (s : State) :
    operationPort r s = exec i s := by rw [operationPort, h]

theorem operationPort_next {r : Request} (h : operationPort r s = .next t) :
    ∃ i, decodeRequest r = .ok i ∧ exec i s = .next t := by
  cases hd : decodeRequest r with
  | error e => cases (operationPort_error hd s).symm.trans h
  | ok i => exact ⟨i, rfl, (operationPort_ok hd s).symm.trans h⟩

theorem operationPort_ne_fault (r : Request) (s : State) (f : Fault) : operationPort r s ≠ .fault f := by
  cases hd : decodeRequest r with
  | error e => rw [operationPort_error hd]; nofun
  | ok i => rw [operationPort_ok hd]; exact exec_ne_fault i s f

theorem State.idle_or_transacting (s : State) : s.st = .idle ∨ s.st = .transacting := by
  cases s.st with
  | idle => exact .inl rfl
  | transacting => exact .inr rfl

theorem step_idle (hst : s.st = .idle) : step s = idleStep s := by rw [step, hst]

theorem step_idle_nil (hst : s.st = .idle) (hr : s.requests = []) : step s = .next s := by
  rw [step_idle hst, idleStep, hr]

theorem step_idle_cons {r : Request} {rs : List Request} (hst : s.st = .idle) (hr : s.requests = r :: rs) :
    step s = operationPort r { s with requests := rs } := by
  rw [step_idle hst, idleStep, hr]

theorem step_transacting (hst : s.st = .transacting) : step s = resume s := by rw [step, hst]

/-- Everything a step can do that goes on: the block is at rest, runs the operation of the next request, or goes on with
the one in progress. -/
theorem step_next (h : step s = .next t) :
    (s.st = .idle ∧ t = s) ∨
    (∃ r rs i, s.st = .idle ∧ s.requests = r :: rs ∧ decodeRequest r = .ok i ∧
      Ran { s with requests := rs } i (.next t)) ∨
    (s.st = .transacting ∧ Resumed s (.next t)) := by
  rcases s.idle_or_transacting with hst | hst
  · rcases hr : s.requests with _ | ⟨r, rs⟩
    · rw [step_idle_nil hst hr] at h; cases h; exact .inl ⟨hst, rfl⟩
    · rw [step_idle_cons hst hr] at h
      obtain ⟨i, hd, he⟩ := operationPort_next h
      exact .inr (.inl ⟨r, rs, i, hst, rfl, hd, (exec_next he).2⟩)
  · exact .inr (.inr ⟨hst, h ▸ step_transacting hst ▸ resume_resumed s⟩)

end Sys2Proof.Machine
end

section
/-! PROOFS. The invariants of 10_state.md along steps and runs, and the frames of the operations. -/

namespace Sys2Proof.Machine

variable {s t : State}

/-! ### The invariant of the state elements -/

theorem State.Inv.of_idleClean (hst : s.st = .idle) (h : s.IdleClean) : s.Inv :=
  ⟨fun _ => h, fun ht => by rw [hst] at ht; cases ht⟩

theorem State.Inv.of_waiting (hst : s.st = .transacting) (h : s.Waiting) : s.Inv :=
  ⟨fun ht => (by rw [hst] at ht; cases ht), fun _ => h⟩

/-- An operation that has ended leaves the block clean at Idle (R139). -/
theorem State.ended_inv (s : State) (r : OpResult) (rest : List Answer) (evs : List BusEvent) :
    (s.ended r rest evs).Inv :=
  .of_idleClean rfl ⟨rfl, rfl, rfl, rfl, rfl, rfl⟩

/-- A bus access leads to a clean Idle, or to the state that waits for its call. -/
theorem Access.inv {c : BusCall} {result : Answer → OpResult} (h : Access c result s (.next t))
    (hst : s.st = .transacting) (hw : ({ s with call := some c } : State).Waiting) : t.Inv := by
  cases h with
  | waits _ => exact .of_waiting hst hw
  | ends _ _ => exact s.ended_inv _ _ _

/-- In the read phase the write answered `Ok` is the last event (R49, R50). -/
theorem RawAccess.inv (h : RawAccess s (.next t)) (hst : s.st = .transacting) (hp : s.inProgress = some .readRaw)
    (hph : s.ph = some .write) (hcrc : s.crc = none) (hbuf : s.buf = []) (hcnt : s.cnt = none) : t.Inv := by
  cases h with
  | write _ h => exact h.inv hst ⟨hcrc, hbuf, hcnt, .inr (.inr (.inl ⟨hp, hph, rfl⟩))⟩
  | read _ h => exact h.inv hst ⟨hcrc, hbuf, hcnt, .inr (.inr (.inr ⟨hp, rfl, rfl, s.history, rfl⟩))⟩

theorem Ran.inv {i : Instr} (h : Ran s i (.next t)) (hs : s.Inv) (hst : s.st = .idle) : t.Inv := by
  obtain ⟨hph, hcrc, hbuf, hcnt, hp, hcall⟩ := hs.1 hst
  cases h with
  | computed _ => exact .of_idleClean hst ⟨hph, rfl, hbuf, hcnt, hp, hcall⟩
  | validated _ _ => exact .of_idleClean hst ⟨hph, rfl, hbuf, hcnt, hp, hcall⟩
  | decoded _ _ _ _ => exact .of_idleClean hst ⟨hph, hcrc, hbuf, hcnt, hp, hcall⟩
  | wrote bytes h => exact h.inv rfl ⟨hcrc, hbuf, hcnt, .inl ⟨rfl, hph, bytes, rfl⟩⟩
  | readFrame h => exact h.inv rfl ⟨hcrc, hbuf, hcnt, .inr (.inl ⟨rfl, hph, rfl⟩)⟩
  | readRaw h => exact h.inv rfl rfl rfl hcrc hbuf hcnt

theorem Resumed.inv (h : Resumed s (.next t)) (hst : s.st = .transacting) (hw : s.Waiting) : t.Inv := by
  obtain ⟨hcrc, hbuf, hcnt, hwhich⟩ := hw
  cases h with
  | @write _ bytes _ hp _ h =>
    obtain ⟨hph, -⟩ : s.ph = none ∧ _ := by simpa [hp] using hwhich
    exact h.inv hst ⟨hcrc, hbuf, hcnt, .inl ⟨hp, hph, bytes, rfl⟩⟩
  | readFrame hp h =>
    obtain ⟨hph, -⟩ : s.ph = none ∧ _ := by simpa [hp] using hwhich
    exact h.inv hst ⟨hcrc, hbuf, hcnt, .inr (.inl ⟨hp, hph, rfl⟩)⟩
  | rawWrite hp hph h => exact h.inv hst hp hph hcrc hbuf hcnt
  | rawRead hp hph h =>
    obtain ⟨-, hlast⟩ : _ ∧ ∃ before, s.history = before ++ _ := by simpa [hp, hph] using hwhich
    exact h.inv hst ⟨hcrc, hbuf, hcnt, .inr (.inr (.inr ⟨hp, hph, rfl, hlast⟩))⟩
  | ended _ r => exact s.ended_inv r _ _

theorem step_inv (hs : s.Inv) (h : step s = .next t) : t.Inv := by
  obtain ⟨-, rfl⟩ | ⟨_, _, _, hst, -, -, hr⟩ | ⟨hst, hr⟩ := step_next h
  · exact hs
  · exact hr.inv hs hst
  · exact hr.inv hst (hs.2 hst)

theorem operationPort_inv {r : Request} (hs : s.Inv) (h : operationPort r s = .next t) : t.Inv := by
  obtain ⟨i, -, he⟩ := operationPort_next h
  obtain ⟨hst, hr⟩ := exec_next he
  exact hr.inv hs hst

/-- Settles O46: whatever a step can do leads to a clean Idle or to a wait for one call. -/
theorem stepKeepsTransactionInvariant : Obligations.StepKeepsTransactionInvariant :=
  fun _ _ => step_inv

/-- Settles O49: an operation never faults, and a step faults only in a state the block cannot wait in. -/
theorem noTransientIsReadBeforeItIsWritten : Obligations.NoTransientIsReadBeforeItIsWritten := by
  refine fun s hs => ⟨fun f h => ?_, fun i f => exec_ne_fault i s f⟩
  rcases s.idle_or_transacting with hst | hst
  · rcases hr : s.requests with _ | ⟨r, rs⟩
    · cases (step_idle_nil hst hr).symm.trans h
    · exact operationPort_ne_fault r _ f ((step_idle_cons hst hr).symm.trans h)
  · have hres : Resumed s (.fault f) := h ▸ step_transacting hst ▸ resume_resumed s
    exact hres.not_waiting_of_fault (hs.2 hst)

/-! ### The invariant of the event history -/

/-- A call of an operation of a block with configuration `cfg`: whatever the port can carry back makes an event of R51. -/
def BusCall.OfInstance (cfg : Cfg) (c : BusCall) : Prop := ∀ a, c.admits a = true → (c.event a).ofInstance cfg

theorem BusCall.write_ofInstance (cfg : Cfg) (bytes : List Byte) :
    (BusCall.write cfg.i2cAddress bytes).OfInstance cfg := fun _ ha => ⟨rfl, ha⟩

theorem Cfg.selectCall_ofInstance (cfg : Cfg) : cfg.selectCall.OfInstance cfg := BusCall.write_ofInstance cfg _

theorem Cfg.readCall_ofInstance (cfg : Cfg) : cfg.readCall.OfInstance cfg := fun _ ha => ⟨rfl, rfl, ha⟩

theorem Access.historyInv {c : BusCall} {result : Answer → OpResult} (h : Access c result s (.next t))
    (hc : c.OfInstance s.cfg) (hs : s.HistoryInv) : t.HistoryInv := by
  cases h with
  | waits _ => exact hs
  | ends _ ha => exact List.forall_mem_append.2 ⟨hs, List.forall_mem_singleton.2 (hc _ ha)⟩

theorem RawAccess.historyInv (h : RawAccess s (.next t)) (hs : s.HistoryInv) : t.HistoryInv := by
  cases h with
  | write _ h => exact h.historyInv s.cfg.selectCall_ofInstance hs
  | read _ h =>
    refine h.historyInv s.cfg.readCall_ofInstance (List.forall_mem_append.2 ⟨hs, List.forall_mem_singleton.2 ?_⟩)
    exact s.cfg.selectCall_ofInstance _ rfl

theorem Ran.historyInv {i : Instr} (h : Ran s i (.next t)) (hs : s.HistoryInv) : t.HistoryInv := by
  cases h with
  | computed _ => exact hs
  | validated _ _ => exact hs
  | decoded _ _ _ _ => exact hs
  | wrote _ h => exact h.historyInv (BusCall.write_ofInstance _ _) hs
  | readFrame h => exact h.historyInv (Cfg.readCall_ofInstance _) hs
  | readRaw h => exact h.historyInv hs

theorem Resumed.historyInv (h : Resumed s (.next t)) (hs : s.HistoryInv) : t.HistoryInv := by
  cases h with
  | write _ _ h => exact h.historyInv (BusCall.write_ofInstance _ _) hs
  | readFrame _ h => exact h.historyInv s.cfg.readCall_ofInstance hs
  | rawWrite _ _ h => exact h.historyInv hs
  | rawRead _ _ h => exact h.historyInv s.cfg.readCall_ofInstance hs
  | ended _ _ => simpa [State.HistoryInv] using hs

theorem step_historyInv (hs : s.HistoryInv) (h : step s = .next t) : t.HistoryInv := by
  obtain ⟨-, rfl⟩ | ⟨_, _, _, -, -, -, hr⟩ | ⟨-, hr⟩ := step_next h
  · exact hs
  · exact hr.historyInv hs
  · exact hr.historyInv hs

theorem operationPort_historyInv {r : Request} (hs : s.HistoryInv) (h : operationPort r s = .next t) :
    t.HistoryInv := by
  obtain ⟨i, -, he⟩ := operationPort_next h
  exact (exec_next he).2.historyInv hs

/-! ### Construction, and runs -/

/-- A construction sets `CFG` and leaves the rest as after reset (R150). -/
theorem construct_ok {p : ConstructionParams} (h : construct p = .ok t) :
    ∃ cfg, t = { State.reset with cfg := cfg } := by
  rw [construct] at h
  split at h
  · cases h
  · exact ⟨_, (Except.ok.inj h).symm⟩

theorem FreshInstance.inv (h : FreshInstance s) : s.Inv ∧ s.HistoryInv := by
  obtain ⟨p, t, hp, hs⟩ := h
  obtain ⟨cfg, rfl⟩ := construct_ok hp
  rw [hs]
  exact ⟨.of_idleClean rfl ⟨rfl, rfl, rfl, rfl, rfl, rfl⟩, fun _ he => by cases he⟩

/-- A re-construction leads to a fresh state, with what waits outside the block (R152; log entry 15). -/
theorem reconstruct_fresh {p : ConstructionParams} (h : reconstruct p s = some (.ok t)) : FreshInstance t := by
  rw [reconstruct] at h
  split at h
  · cases h
  · split at h
    · cases h
    next u hu => cases h; exact ⟨p, u, hu, rfl⟩

/-- Settles O45: the reset state is the construction without parameters. -/
theorem freshInstanceMeetsInvariant : Obligations.FreshInstanceMeetsInvariant := by
  have hreset : FreshInstance State.reset := ⟨{}, State.reset, rfl, rfl⟩
  exact ⟨hreset.inv.1, hreset.inv.2, fun _ => FreshInstance.inv⟩

/-- Every move of a run keeps both invariants. -/
theorem Move.apply_inv (m : Move) (s t : State) (hs : s.Inv ∧ s.HistoryInv) (h : m.apply s = some t) :
    t.Inv ∧ t.HistoryInv := by
  obtain ⟨-, h⟩ | ⟨_, -, h⟩ | ⟨_, -, rfl⟩ | ⟨-, rfl⟩ | ⟨_, -, rfl⟩ | ⟨_, -, h⟩ | ⟨-, rfl⟩ := Move.apply_cases h
  · exact ⟨step_inv hs.1 h, step_historyInv hs.2 h⟩
  · exact ⟨operationPort_inv hs.1 h, operationPort_historyInv hs.2 h⟩
  · exact hs
  · exact hs
  · exact hs
  · exact (reconstruct_fresh h).inv
  · exact hs

/-- Settles O52, by induction on the moves. -/
theorem runsKeepTheInvariants : Obligations.RunsKeepTheInvariants :=
  fun _ _ _ hs hh hr => runMoves_induction Move.apply_inv ⟨hs, hh⟩ hr

/-! ### Frames -/

/-- Settles O42, from what an operation and a step can do. -/
theorem configurationIsImmutable : Obligations.ConfigurationIsImmutable := by
  refine ⟨fun i s t h => (exec_next h).2.cfg, fun s t h => ?_⟩
  obtain ⟨-, rfl⟩ | ⟨_, _, _, -, -, -, hr⟩ | ⟨-, hr⟩ := step_next h
  · rfl
  · exact hr.cfg
  · exact hr.cfg

/-- Settles O40: the pure operations have one next state each. -/
theorem pureOperationsFrame : Obligations.PureOperationsFrame := by
  intro i s t hi h
  cases (exec_next h).2 with
  | computed frame =>
    exact ⟨rfl, rfl, rfl, fun _ => rfl, rfl, rfl, rfl, rfl, rfl, rfl, rfl, nofun, fun _ => rfl, _, rfl⟩
  | validated frame expected =>
    exact ⟨rfl, rfl, rfl, fun _ => rfl, rfl, rfl, rfl, rfl, rfl, rfl, rfl, nofun, fun _ => rfl, _, rfl⟩
  | decoded d0 d1 d2 d3 =>
    exact ⟨rfl, rfl, rfl, fun _ => rfl, rfl, rfl, rfl, rfl, rfl, rfl, rfl, fun _ => rfl,
      fun hno => absurd rfl (hno d0 d1 d2 d3), _, rfl⟩
  | wrote _ _ | readFrame _ | readRaw _ => simp at hi

/-- The events `evs` were recorded from `s` to `t`, each of them the block's own, and one answer drawn for each (R51). -/
def Drew (s t : State) (evs : List BusEvent) : Prop :=
  t.history = s.history ++ evs ∧ (∀ e ∈ evs, e.ofInstance s.cfg) ∧
    ∃ drawn, s.answers = drawn ++ t.answers ∧ drawn.length = evs.length

theorem Access.drew {c : BusCall} {result : Answer → OpResult} (h : Access c result s (.next t))
    (hc : c.OfInstance s.cfg) : ∃ evs, Drew s t evs ∧ (evs = [] ∨ ∃ a, evs = [c.event a]) := by
  cases h with
  | waits _ => exact ⟨[], ⟨(List.append_nil _).symm, nofun, [], rfl, rfl⟩, .inl rfl⟩
  | @ends a rest h ha =>
    exact ⟨[c.event a], ⟨rfl, List.forall_mem_singleton.2 (hc a ha), [a], h, rfl⟩, .inr ⟨a, rfl⟩⟩

/-- The answered write of `RP.READ_RAW` comes before what its read records. -/
theorem Drew.of_selected {rest : List Answer} {evs : List BusEvent} (ha : s.answers = .ok [] :: rest)
    (h : Drew (s.selected rest) t evs) : Drew s t (s.cfg.selectCall.event (.ok []) :: evs) := by
  obtain ⟨hhist, hown, drawn, hdrawn, hlen⟩ := h
  refine ⟨by rw [hhist]; exact List.append_assoc _ _ _, ?_, .ok [] :: drawn, ?_, congrArg Nat.succ hlen⟩
  · exact List.forall_mem_cons.2 ⟨s.cfg.selectCall_ofInstance _ rfl, hown⟩
  · rw [ha, List.cons_append]; exact congrArg _ hdrawn

theorem RawAccess.drew (h : RawAccess s (.next t)) :
    ∃ evs, Drew s t evs ∧ (evs = [] ∨ (∃ a, evs = [s.cfg.selectCall.event a]) ∨
      ∃ a, evs = [s.cfg.selectCall.event (.ok []), s.cfg.readCall.event a]) := by
  cases h with
  | write _ h =>
    obtain ⟨evs, hd, hevs⟩ := h.drew s.cfg.selectCall_ofInstance
    exact ⟨evs, hd, hevs.imp_right .inl⟩
  | read ha h =>
    obtain ⟨evs, hd, rfl | ⟨a, rfl⟩⟩ := h.drew s.cfg.readCall_ofInstance
    · exact ⟨_, hd.of_selected ha, .inr (.inl ⟨_, rfl⟩)⟩
    · exact ⟨_, hd.of_selected ha, .inr (.inr ⟨a, rfl⟩)⟩

/-- A bus operation has ended with one result and clean registers, or it waits, with `CRC`, `CNT` and `BUF` as before and
no answer left (R26, R122, R139). -/
def EndedOrWaits (s t : State) : Prop :=
  (t.st = .idle ∧ (∃ r, t.results = s.results ++ [r]) ∧ t.ph = none ∧ t.crc = none ∧ t.cnt = none ∧
      t.inProgress = none ∧ t.call = none ∧ ∀ a, Memory.read t.buf a = none) ∨
   (t.st = .transacting ∧ t.results = s.results ∧ t.crc = s.crc ∧ t.cnt = s.cnt ∧ t.answers = [] ∧
      t.inProgress ≠ none ∧ t.call ≠ none ∧ ∀ a, Memory.read t.buf a = Memory.read s.buf a)

theorem Access.endedOrWaits {c : BusCall} {result : Answer → OpResult} (h : Access c result s (.next t))
    (hst : s.st = .transacting) (hp : s.inProgress ≠ none) : EndedOrWaits s t := by
  cases h with
  | waits ha => exact .inr ⟨hst, rfl, rfl, rfl, ha, hp, nofun, fun _ => rfl⟩
  | ends _ _ => exact .inl ⟨rfl, ⟨_, rfl⟩, rfl, rfl, rfl, rfl, rfl, fun _ => rfl⟩

theorem RawAccess.endedOrWaits (h : RawAccess s (.next t)) (hst : s.st = .transacting) (hp : s.inProgress ≠ none) :
    EndedOrWaits s t := by
  cases h with
  | write _ h => exact h.endedOrWaits hst hp
  | read _ h => exact h.endedOrWaits hst hp

/-- Settles O41, from the events and the end or wait of each bus access. -/
theorem busOperationsFrame : Obligations.BusOperationsFrame := by
  intro i s t hi h
  cases (exec_next h).2 with
  | computed _ | validated _ _ | decoded _ _ _ _ => simp at hi
  | wrote bytes h =>
    obtain ⟨evs, ⟨hhist, hown, hdrawn⟩, hevs⟩ := h.drew (BusCall.write_ofInstance s.cfg bytes)
    refine ⟨h.cfg, h.requests, ⟨evs, hhist, hown, hdrawn, ?_, nofun, nofun⟩, h.endedOrWaits rfl nofun⟩
    rintro _ ⟨⟩
    exact hevs
  | readFrame h =>
    obtain ⟨evs, ⟨hhist, hown, hdrawn⟩, hevs⟩ := h.drew s.cfg.readCall_ofInstance
    exact ⟨h.cfg, h.requests, ⟨evs, hhist, hown, hdrawn, nofun, fun _ => hevs, nofun⟩, h.endedOrWaits rfl nofun⟩
  | readRaw h =>
    obtain ⟨evs, ⟨hhist, hown, hdrawn⟩, hevs⟩ := h.drew
    exact ⟨h.cfg, h.requests, ⟨evs, hhist, hown, hdrawn, nofun, nofun, fun _ => hevs⟩, h.endedOrWaits rfl nofun⟩

end Sys2Proof.Machine
end


section
/-! PROOFS. The operation port: which requests it reads, takes and turns away (10_state.md R29; 30_encoding.md R67,
R69). -/

namespace Sys2Proof.Machine

variable {s t : State}

/-- What the laws of each operation's record say, of all of them. -/
theorem encodeRequest_roundTrip (i : Instr) : Laws.RequestRoundTrip.Statement i := by
  cases i with
  | crcCompute frame => exact Laws.RequestRoundTrip.crcCompute frame
  | crcValidate frame expected => exact Laws.RequestRoundTrip.crcValidate frame expected
  | asmDecode d0 d1 d2 d3 => exact Laws.RequestRoundTrip.asmDecode d0 d1 d2 d3
  | rpWriteCommand bytes => exact Laws.RequestRoundTrip.rpWriteCommand bytes
  | rpReadFrame => exact Laws.RequestRoundTrip.rpReadFrame
  | rpReadRaw => exact Laws.RequestRoundTrip.rpReadRaw
  | reserved110 => exact Laws.RequestRoundTrip.reserved110
  | reserved111 => exact Laws.RequestRoundTrip.reserved111

/-- The eight codes (R66). -/
theorem opCode_cases (op : OpCode) :
    op = 0b000#3 ∨ op = 0b001#3 ∨ op = 0b010#3 ∨ op = 0b011#3 ∨ op = 0b100#3 ∨ op = 0b101#3 ∨ op = 0b110#3 ∨
      op = 0b111#3 := by decide +revert

theorem exists_seq_of_shapes {xs : List Operand} {shapes : List OperandShape}
    (h : xs.map Operand.shape = .seq :: shapes) : ∃ bs ys, xs = .seq bs :: ys ∧ ys.map Operand.shape = shapes := by
  obtain ⟨x, ys, rfl, hx, hys⟩ := List.map_eq_cons_iff.1 h
  cases x with
  | byte b => cases hx
  | seq bs => exact ⟨bs, ys, rfl, hys⟩

theorem exists_byte_of_shapes {xs : List Operand} {shapes : List OperandShape}
    (h : xs.map Operand.shape = .byte :: shapes) : ∃ b ys, xs = .byte b :: ys ∧ ys.map Operand.shape = shapes := by
  obtain ⟨x, ys, rfl, hx, hys⟩ := List.map_eq_cons_iff.1 h
  cases x with
  | byte b => exact ⟨b, ys, rfl, hys⟩
  | seq bs => cases hx

/-- A record with the operands its code takes is the record of an operation (R64, R67). -/
theorem exists_encodeRequest {r : Request} (h : r.operandsMatch = true) : ∃ i, r = encodeRequest i := by
  obtain ⟨op, args⟩ := r
  have hargs : args.map Operand.shape = operandShapes op := eq_of_beq h
  rcases opCode_cases op with rfl | rfl | rfl | rfl | rfl | rfl | rfl | rfl
  · obtain ⟨frame, _, rfl, h0⟩ := exists_seq_of_shapes hargs
    obtain rfl := List.map_eq_nil_iff.1 h0
    exact ⟨.crcCompute frame, rfl⟩
  · obtain ⟨frame, _, rfl, h1⟩ := exists_seq_of_shapes hargs
    obtain ⟨expected, _, rfl, h0⟩ := exists_byte_of_shapes h1
    obtain rfl := List.map_eq_nil_iff.1 h0
    exact ⟨.crcValidate frame expected, rfl⟩
  · obtain ⟨d0, _, rfl, h3⟩ := exists_byte_of_shapes hargs
    obtain ⟨d1, _, rfl, h2⟩ := exists_byte_of_shapes h3
    obtain ⟨d2, _, rfl, h1⟩ := exists_byte_of_shapes h2
    obtain ⟨d3, _, rfl, h0⟩ := exists_byte_of_shapes h1
    obtain rfl := List.map_eq_nil_iff.1 h0
    exact ⟨.asmDecode d0 d1 d2 d3, rfl⟩
  · obtain ⟨bytes, _, rfl, h0⟩ := exists_seq_of_shapes hargs
    obtain rfl := List.map_eq_nil_iff.1 h0
    exact ⟨.rpWriteCommand bytes, rfl⟩
  · obtain rfl := List.map_eq_nil_iff.1 hargs
    exact ⟨.rpReadFrame, rfl⟩
  · obtain rfl := List.map_eq_nil_iff.1 hargs
    exact ⟨.rpReadRaw, rfl⟩
  · obtain rfl := List.map_eq_nil_iff.1 hargs
    exact ⟨.reserved110, rfl⟩
  · obtain rfl := List.map_eq_nil_iff.1 hargs
    exact ⟨.reserved111, rfl⟩

/-- A code that is none of the first four takes no operands (R64, R66). -/
theorem operandShapes_eq_nil {op : OpCode} (h0 : op ≠ 0b000#3) (h1 : op ≠ 0b001#3) (h2 : op ≠ 0b010#3)
    (h3 : op ≠ 0b011#3) : operandShapes op = [] := by decide +revert

/-- A record that is read as an operation has the operands its code takes (R67). -/
theorem operandsMatch_of_decodeRequest {r : Request} {i : Instr} (h : decodeRequest r = .ok i) :
    r.operandsMatch = true := by
  refine beq_iff_eq.2 ?_
  rw [decodeRequest] at h
  by_cases h0 : r.op = 0b000#3
  · rw [if_pos h0] at h
    split at h
    · next hargs => rw [hargs, h0]; rfl
    · cases h
  by_cases h1 : r.op = 0b001#3
  · rw [if_neg h0, if_pos h1] at h
    split at h
    · next hargs => rw [hargs, h1]; rfl
    · cases h
  by_cases h2 : r.op = 0b010#3
  · rw [if_neg h0, if_neg h1, if_pos h2] at h
    split at h
    · next hargs => rw [hargs, h2]; rfl
    · cases h
  by_cases h3 : r.op = 0b011#3
  · rw [if_neg h0, if_neg h1, if_neg h2, if_pos h3] at h
    split at h
    · next hargs => rw [hargs, h3]; rfl
    · cases h
  · rw [if_neg h0, if_neg h1, if_neg h2, if_neg h3] at h
    split at h
    · next hargs => rw [hargs, operandShapes_eq_nil h0 h1 h2 h3]; rfl
    · cases h

/-- A record stands for at most one operation, and is the record of that one (R63, R66). -/
theorem decodeRequest_eq_ok {r : Request} {i : Instr} : decodeRequest r = .ok i ↔ r = encodeRequest i := by
  refine ⟨fun h => ?_, fun h => h ▸ (encodeRequest_roundTrip i).1⟩
  obtain ⟨j, rfl⟩ := exists_encodeRequest (operandsMatch_of_decodeRequest h)
  cases (encodeRequest_roundTrip j).1.symm.trans h
  rfl

theorem wellFormed_of_decodeRequest_ok {r : Request} {i : Instr} (h : decodeRequest r = .ok i) :
    r.wellFormed = i.wellFormed := by
  rw [decodeRequest_eq_ok.1 h, (encodeRequest_roundTrip i).2.2]

theorem wellFormed_of_decodeRequest_error {r : Request} {e : DecodeError} (h : decodeRequest r = .error e) :
    r.wellFormed = false := by
  rw [Request.wellFormed, Bool.and_eq_false_iff]
  refine .inr (Bool.eq_false_iff.2 fun hm => ?_)
  obtain ⟨i, hi⟩ := exists_encodeRequest hm
  cases h.symm.trans (decodeRequest_eq_ok.2 hi)

/-- Which operations the port turns away. -/
theorem exec_refused_iff (i : Instr) (s : State) :
    (∃ why, exec i s = .refused why ∧ why ≠ .inadmissibleAnswer) ↔ (i.wellFormed = false ∨ s.st = .transacting) := by
  constructor
  · rintro ⟨why, hr, hwhy⟩
    rcases s.idle_or_transacting with hst | hst
    · refine .inl (Bool.eq_false_iff.2 fun hi => hwhy ?_)
      exact Ran.refused hi (hr ▸ exec_ran i hst)
    · exact .inr hst
  · rintro (hi | hst)
    · exact ⟨_, exec_reserved hi, nofun⟩
    · exact exec_refused_of_transacting i hst

/-- Settles O5: an ill-formed record is not read, and what is read `exec` admits or refuses. -/
theorem portRefusesExactlyWhatItDoesNotTake : Obligations.PortRefusesExactlyWhatItDoesNotTake := by
  intro r s
  cases hd : decodeRequest r with
  | error e =>
    rw [operationPort_error hd]
    exact iff_of_true ⟨_, rfl, nofun⟩ (.inl (wellFormed_of_decodeRequest_error hd))
  | ok i =>
    rw [operationPort_ok hd, wellFormed_of_decodeRequest_ok hd]
    exact exec_refused_iff i s

/-- Settles O7; any request is refused by the port's own condition (O5). -/
theorem noOperationIsTakenWhileTransacting : Obligations.NoOperationIsTakenWhileTransacting := by
  refine ⟨fun i s hi hst => exec_transacting hi hst, fun r s hst => ?_, fun i s t h => (exec_next h).1⟩
  obtain ⟨why, hr, -⟩ := (portRefusesExactlyWhatItDoesNotTake r s).2 (.inr hst)
  exact ⟨why, hr⟩

/-- The record of a table word is read as the operation of that word. -/
theorem decodeRequest_tableRequest {nbits w : Nat} {i : Instr} (h : decodeTableWord nbits w = some i) :
    decodeRequest (tableRequest nbits w) = .ok i := by
  rw [decodeTableWord, decode] at h
  rw [tableRequest]
  cases hp : parseFlat (tableBytes nbits w) with
  | error e => rw [hp] at h; cases h
  | ok p =>
    rw [hp] at h
    cases hd : decodeRequest p.1 with
    | error e => simp only [hd] at h; cases h
    | ok j => simp only [hd] at h; cases h; rfl

/-- Settles O4: a placed word is the front of the queue. -/
theorem stepRunsTheDecodedRequest : Obligations.StepRunsTheDecodedRequest := by
  refine ⟨fun s r rs i hst hr hd => ?_, fun s r rs e hst hr hd => ?_, fun s hst hr => step_idle_nil hst hr,
    fun s nbits w i hst hd => ?_⟩
  · rw [step_idle_cons hst hr, operationPort_ok hd]
  · rw [step_idle_cons hst hr, operationPort_error hd]
  · have hplaced : step (s.withFetchWord nbits w) = operationPort (tableRequest nbits w) s := step_idle_cons hst rfl
    rw [hplaced, operationPort_ok (decodeRequest_tableRequest hd)]

end Sys2Proof.Machine
end

section
/-! PROOFS. The transient registers: reading one without a value, and filling the frame buffer (10_state.md R22, R23,
R33). -/

namespace Sys2Proof.Machine

theorem readCrc_none (k : Byte → Result) (s : State) (h : s.crc = none) : readCrc k s = .fault (.noValue .crc) := by
  rw [readCrc, h]

theorem readCnt_none (k : BitVec 3 → Result) (s : State) (h : s.cnt = none) :
    readCnt k s = .fault (.noValue .cnt) := by
  rw [readCnt, h]

theorem readBuf_none (i : Nat) (k : Byte → Result) (s : State) (hi : i < bufCells)
    (h : Memory.read s.buf i = none) : readBuf i k s = .fault (.noValue (.buf i)) := by
  rw [readBuf, if_pos hi, h]

theorem readBuf_beyond (i : Nat) (k : Byte → Result) (s : State) (hi : bufCells ≤ i) :
    readBuf i k s = .fault (.noSuchCell i) := by
  rw [readBuf, if_neg (Nat.not_lt.2 hi)]

/-- Settles O50. The step that goes on with `RP.READ_RAW` reads `PH` first. -/
theorem readingAnEmptyRegisterIsAFault : Obligations.ReadingAnEmptyRegisterIsAFault := by
  refine ⟨readPh_none, readCrc_none, readCnt_none, readBuf_none, readBuf_beyond, fun s hst hp hph => ?_⟩
  rw [step_transacting hst, resume, hp]
  exact readPh_none _ s hph

/-- Filled from empty, cell `i` holds byte `i` and no other cell holds a value (R22). -/
theorem Memory.read_writeAll_nil (bs : List Byte) (i : Nat) : Memory.read (Memory.writeAll [] 0 bs) i = bs[i]? := by
  have h := Memory.read_writeAll [] 0 i bs
  rwa [Nat.zero_add, Memory.read, Option.or_none] at h

/-- Settles O51: the state is `s.filled bs`. -/
theorem filledBufferHoldsTheAnswer : Obligations.FilledBufferHoldsTheAnswer := by
  intro bs k s hlen
  refine ⟨s.filled bs, fillBuf_ok bs k s hlen, rfl, ?_, Memory.read_writeAll_nil bs, ?_,
    rfl, rfl, rfl, rfl, rfl, rfl, rfl, rfl, rfl, rfl⟩
  · exact Nat.mod_eq_of_lt (by omega)
  · exact Memory.wf_writeAll [] 0 bs (by simpa [bufCells] using hlen) Memory.wf_nil

end Sys2Proof.Machine
end

section
/-! PROOFS. The transport port and the frame buffer along steps (20_memory.md R40, R46, R47, R49, R50): what an answer
must be to be taken, that a wait leaves no trace, and the canonical form of `BUF`. -/

namespace Sys2Proof.Machine

variable {s t : State}

/-- Settles O47, from what each bus access records (R51). -/
theorem stepKeepsEventHistoryOfInstance : Obligations.StepKeepsEventHistoryOfInstance :=
  fun _ _ => step_historyInv

/-! ### The canonical form of the frame buffer -/

theorem Access.buf {c : BusCall} {result : Answer → OpResult} (h : Access c result s (.next t)) :
    t.buf = s.buf ∨ t.buf = [] := by
  cases h with
  | waits _ => exact .inl rfl
  | ends _ _ => exact .inr rfl

theorem RawAccess.buf : RawAccess s (.next t) → t.buf = s.buf ∨ t.buf = []
  | .write _ h => h.buf
  | .read _ h => h.buf

theorem Ran.buf {i : Instr} : Ran s i (.next t) → t.buf = s.buf ∨ t.buf = []
  | .computed _ => .inl rfl
  | .validated _ _ => .inl rfl
  | .decoded _ _ _ _ => .inl rfl
  | .wrote _ h => h.buf
  | .readFrame h => h.buf
  | .readRaw h => h.buf

theorem Resumed.buf : Resumed s (.next t) → t.buf = s.buf ∨ t.buf = []
  | .write _ _ h => h.buf
  | .readFrame _ h => h.buf
  | .rawWrite _ _ h => h.buf
  | .rawRead _ _ h => h.buf
  | .ended _ _ => .inr rfl

/-- A frame is received and used within one step, so at its end `BUF` is as before or holds no value (R22). -/
theorem step_buf (h : step s = .next t) : t.buf = s.buf ∨ t.buf = [] := by
  obtain ⟨-, rfl⟩ | ⟨_, _, _, -, -, -, hr⟩ | ⟨-, hr⟩ := step_next h
  · exact .inl rfl
  · exact hr.buf
  · exact hr.buf

/-- Settles O48: a buffer that a step leaves is the one before it, or one without values. -/
theorem stepKeepsBufferCanonical : Obligations.StepKeepsBufferCanonical := by
  intro s t hs h
  rcases step_buf h with hb | hb
  · rw [hb]; exact hs
  · rw [hb]; exact Memory.wf_nil

/-! ### An answer longer than the call asked for (R47) -/

theorem BusCall.not_admits_of_limit_lt {c : BusCall} {bs : List Byte} (h : c.limit < bs.length) :
    c.admits (.ok bs) = false := decide_eq_false (Nat.not_le.2 h)

/-- A call does not take an answer beyond its limit, whatever the operation would do with it. -/
theorem await_overlong {c : BusCall} {bs : List Byte} {rest : List Answer} (k : Answer → State → Result)
    (ha : s.answers = .ok bs :: rest) (hlen : c.limit < bs.length) : await c k s = .refused .inadmissibleAnswer :=
  await_inadmissible c k s _ rest ha (BusCall.not_admits_of_limit_lt hlen)

/-- Settles O34: every bus operation draws its answers through `await`. -/
theorem overlongAnswerIsNotTaken : Obligations.OverlongAnswerIsNotTaken := by
  intro s bs rest hst
  refine ⟨fun bytes ha hne => ?_, fun ha hlen => ?_, fun ha hlen => ?_, fun ha hne => ?_⟩
  · rw [exec_rpWriteCommand bytes hst]
    exact await_overlong _ ha (List.length_pos_iff.2 hne)
  · rw [exec_rpReadFrame hst]
    exact await_overlong _ ha hlen
  · exact (execRpReadRaw_selected s _ hst ha).trans (await_overlong _ rfl hlen)
  · rw [exec_rpReadRaw hst]
    exact await_overlong _ ha (List.length_pos_iff.2 hne)

/-! ### An answer that comes late (R49, R50, R122) -/

/-- The call register is written before it is read: a call goes on the same from a state that waits for it. -/
theorem await_of_call (c : BusCall) (k : Answer → State → Result) (s : State) (call : Option BusCall) :
    await c k { s with call := call } = await c k s := by
  rw [await, await]
  dsimp only
  cases s.answers with
  | nil => rfl
  | cons a rest => rfl

theorem resume_writeCommand {address : DeviceAddress} {bytes : List Byte} (hp : s.inProgress = some .writeCommand)
    (hc : s.call = some (.write address bytes)) : resume s = writeCommand bytes s := by
  rw [resume, hp]; simp only [resumeWriteCommand, hc]

theorem resume_readFrame (hp : s.inProgress = some .readFrame) : resume s = readFrame s := by rw [resume, hp]

theorem resume_readRaw {p : Phase} (hp : s.inProgress = some .readRaw) (hph : s.ph = some p) :
    resume s = rawPhase p s := by
  rw [resume, hp]; exact readPh_ok _ _ _ hph

/-- `RP.WRITE_COMMAND`, waiting, goes on as from the issue of its write. -/
theorem step_waiting_writeCommand (hst : s.st = .transacting) (hp : s.inProgress = some .writeCommand)
    (address : DeviceAddress) (bytes : List Byte) :
    step { s with call := some (.write address bytes) } = writeCommand bytes s :=
  Eq.trans (step_transacting hst) (Eq.trans (resume_writeCommand hp rfl)
    (await_of_call (.write s.cfg.i2cAddress bytes) afterWriteCommand s _))

/-- `RP.READ_FRAME`, waiting, goes on as from the issue of its read. -/
theorem step_waiting_readFrame (hst : s.st = .transacting) (hp : s.inProgress = some .readFrame) (c : BusCall) :
    step { s with call := some c } = readFrame s :=
  Eq.trans (step_transacting hst) (Eq.trans (resume_readFrame hp) (await_of_call s.cfg.readCall _ s _))

/-- `RP.READ_RAW`, waiting in its write phase, goes on as from the issue of its write. -/
theorem step_waiting_rawWrite (hst : s.st = .transacting) (hp : s.inProgress = some .readRaw)
    (hph : s.ph = some .write) (c : BusCall) : step { s with call := some c } = rawWrite s :=
  Eq.trans (step_transacting hst) (Eq.trans (resume_readRaw hp hph) (await_of_call s.cfg.selectCall afterRawWrite s _))

/-- `RP.READ_RAW`, waiting in its read phase, goes on as from the issue of its read. -/
theorem step_waiting_rawRead (hst : s.st = .transacting) (hp : s.inProgress = some .readRaw)
    (hph : s.ph = some .read) (c : BusCall) : step { s with call := some c } = rawRead s :=
  Eq.trans (step_transacting hst) (Eq.trans (resume_readRaw hp hph) (await_of_call s.cfg.readCall _ s _))

/-- A bus access that has not ended has met no answer. -/
theorem Access.waiting {c : BusCall} {result : Answer → OpResult} (h : Access c result s (.next t))
    (ht : t.st = .transacting) : s.answers = [] ∧ t = { s with call := some c } := by
  cases h with
  | waits ha => exact ⟨ha, rfl⟩
  | ends _ _ => cases ht

/-- `RP.READ_RAW` has two points to wait at: its write, and after that its read. -/
theorem RawAccess.waiting (h : RawAccess s (.next t)) (ht : t.st = .transacting) :
    (s.answers = [] ∧ t = { s with call := some s.cfg.selectCall }) ∨
    (s.answers = [.ok []] ∧ t = { s.selected [] with call := some s.cfg.readCall }) := by
  cases h with
  | write _ h => exact .inl (h.waiting ht)
  | read ha h =>
    obtain ⟨rfl, rfl⟩ := h.waiting ht
    exact .inr ⟨ha, rfl⟩

/-- Settles O33: each operation waits at one of its calls, and goes on as from the issue of that call. -/
theorem lateAnswersCompleteTheSameOperation : Obligations.LateAnswersCompleteTheSameOperation := by
  intro i s t early late _ hst h ht
  have hidle : ({ s with answers := early ++ late } : State).st = .idle := hst
  cases (exec_next h).2 with
  | computed _ | validated _ _ | decoded _ _ _ _ => cases hst.symm.trans ht
  | wrote bytes h =>
    obtain ⟨rfl, rfl⟩ : early = [] ∧ _ := h.waiting ht
    rw [exec_rpWriteCommand bytes hidle]
    exact step_waiting_writeCommand (s := ({ s with answers := late } : State).begin .writeCommand) rfl rfl _ bytes
  | readFrame h =>
    obtain ⟨rfl, rfl⟩ : early = [] ∧ _ := h.waiting ht
    rw [exec_rpReadFrame hidle]
    exact step_waiting_readFrame (s := ({ s with answers := late } : State).begin .readFrame) rfl rfl _
  | readRaw h =>
    obtain ⟨he, rfl⟩ | ⟨he, rfl⟩ := h.waiting ht
    · obtain rfl : early = [] := he
      rw [exec_rpReadRaw hidle]
      exact step_waiting_rawWrite (s := (({ s with answers := late } : State).begin .readRaw).setPh .write)
        rfl rfl rfl _
    · obtain rfl : early = [.ok []] := he
      refine Eq.trans ?_ (execRpReadRaw_selected { s with answers := [.ok []] ++ late } late hidle rfl).symm
      exact step_waiting_rawRead
        (s := ((({ s with answers := [.ok []] ++ late } : State).begin .readRaw).setPh .write).selected late)
        rfl rfl rfl _

end Sys2Proof.Machine
end

section
/-! PROOFS. The two forms of a request and the results of the operations (30_encoding.md R63 to R69; 60_exceptions.md
section 1): what the flat form and the record are read as, what the port turns away, what each operation ends in. -/

namespace Sys2Proof.Machine

variable {s t : State}

/-! ### The flat form -/

/-- One length byte counts every byte sequence of an operation that has a flat form (R63). -/
theorem length_lt_of_fitsFlat {i : Instr} (hi : i.fitsFlat = true) {bs : List Byte}
    (h : Operand.seq bs ∈ i.operands) : bs.length < 256 := by
  cases i with
  | crcCompute frame =>
    obtain rfl : bs = frame := by simpa [Instr.operands] using h
    exact of_decide_eq_true hi
  | crcValidate frame expected =>
    obtain rfl : bs = frame := by simpa [Instr.operands] using h
    exact of_decide_eq_true hi
  | rpWriteCommand bytes =>
    obtain rfl : bs = bytes := by simpa [Instr.operands] using h
    exact of_decide_eq_true hi
  | asmDecode d0 d1 d2 d3 => simp [Instr.operands] at h
  | rpReadFrame | rpReadRaw | reserved110 | reserved111 => cases h

/-- The flat form of an operation is parsed as the record of that operation. -/
theorem parseFlat_encode {i : Instr} (hi : i.fitsFlat = true) (rest : List Byte) :
    parseFlat (encode i ++ rest) = .ok (encodeRequest i, rest) := by
  have hargs := parseOperands_encode i.operands rest fun _ => length_lt_of_fitsFlat hi
  rw [encode, List.cons_append, parseFlat, Instr.flatCode_code, ← Instr.operands_shape, hargs]
  rfl

/-- Settles O2: the flat form is parsed as the operation's record, and that record is read as the operation. -/
theorem flatFormRoundTrips : Obligations.FlatFormRoundTrips := by
  intro i rest hi
  rw [decode, parseFlat_encode hi rest]
  simp only [(encodeRequest_roundTrip i).1]

/-- Settles O1, word by word, by evaluation. -/
theorem wordsOfTheOperationMapDecode : Obligations.WordsOfTheOperationMapDecode :=
  ⟨rfl, rfl, rfl, rfl, rfl, rfl, rfl, rfl, rfl, rfl⟩

/-! ### The request record -/

/-- A record is read exactly when it has the operands its code takes (R64, R67). -/
theorem exists_decodeRequest_iff {r : Request} : (∃ i, decodeRequest r = .ok i) ↔ r.operandsMatch = true := by
  constructor
  · rintro ⟨i, hi⟩
    exact operandsMatch_of_decodeRequest hi
  · intro hm
    obtain ⟨i, hi⟩ := exists_encodeRequest hm
    exact ⟨i, decodeRequest_eq_ok.2 hi⟩

/-- A record is read as one of the six operations exactly when it is well formed (R67). -/
theorem exists_decodeRequest_wellFormed_iff {r : Request} :
    (∃ i, decodeRequest r = .ok i ∧ i.wellFormed = true) ↔ r.wellFormed = true := by
  constructor
  · rintro ⟨i, hi, hwf⟩
    rw [wellFormed_of_decodeRequest_ok hi, hwf]
  · intro hwf
    obtain ⟨i, hi⟩ := exists_decodeRequest_iff.2 (Bool.and_eq_true_iff.1 hwf).2
    exact ⟨i, hi, wellFormed_of_decodeRequest_ok hi ▸ hwf⟩

/-- Settles O3, clause by clause from the three equivalences on records. -/
theorem requestRecordHasOneMeaning : Obligations.RequestRecordHasOneMeaning :=
  fun _ => ⟨fun _ => decodeRequest_eq_ok, exists_decodeRequest_iff, exists_decodeRequest_wellFormed_iff⟩

/-! ### What the port turns away -/

theorem operationPort_refused_of_not_wellFormed {r : Request} (h : r.wellFormed = false) (s : State) :
    ∃ why, operationPort r s = .refused why := by
  obtain ⟨why, hr, -⟩ := (portRefusesExactlyWhatItDoesNotTake r s).2 (.inl h)
  exact ⟨why, hr⟩

theorem not_wellFormed_of_reserved {r : Request} (h : r.op = 0b110#3 ∨ r.op = 0b111#3) : r.wellFormed = false := by
  rcases h with h | h <;> rw [Request.wellFormed, h] <;> rfl

/-- Settles O6: no record with a reserved code is well formed, and the port refuses what is not. -/
theorem reservedAndIllFormedRequestsAreRefused : Obligations.ReservedAndIllFormedRequestsAreRefused := by
  refine ⟨fun s => ⟨exec_reserved rfl, exec_reserved rfl⟩, fun r s h => operationPort_refused_of_not_wellFormed h s,
    fun r => ?_⟩
  by_cases hres : r.op = 0b110#3 ∨ r.op = 0b111#3
  · exact .inr ⟨hres, operationPort_refused_of_not_wellFormed (not_wellFormed_of_reserved hres)⟩
  · have hcode := opCode_cases r.op
    exact .inl (by tauto)

/-- Settles O8: with the refused request given up, the next one is at the front of an Idle block (O4). -/
theorem refusedRequestLeavesNoTrace : Obligations.RefusedRequestLeavesNoTrace := by
  intro s bad good rs i why hst hr _ hd
  have hfront : s.withdraw.requests = good :: rs := by rw [State.withdraw_requests, hr, List.tail_cons]
  exact stepRunsTheDecodedRequest.1 s.withdraw good rs i hst hfront hd

/-! ### The results of the operations -/

/-- What a bus access ends in is the result of the answer it drew. -/
theorem Access.delivered {c : BusCall} {result : Answer → OpResult} (h : Access c result s (.next t))
    (hst : s.st = .transacting) (ht : t.st = .idle) :
    ∃ a rest, s.answers = a :: rest ∧ c.admits a = true ∧ t.results = s.results ++ [result a] := by
  cases h with
  | waits _ => cases hst.symm.trans ht
  | @ends a rest h ha => exact ⟨a, rest, h, ha, rfl⟩

theorem writeResult_cases (a : Answer) : writeResult a = .ok .unit ∨ writeResult a = .err .busError := by
  cases a with
  | ok _ => exact .inl rfl
  | busError => exact .inr rfl

/-- A read ends in BusError, in ShortReadError, or in what its full frame gives (R114, R131, R132). -/
theorem readResult_cases {cfg : Cfg} {a : Answer} (onFull : List Byte → OpResult)
    (ha : cfg.readCall.admits a = true) :
    (∃ bs, bs.length = frameBytes cfg.crcEn ∧ readResult cfg onFull a = onFull bs) ∨
      readResult cfg onFull a = .err .busError ∨ readResult cfg onFull a = .err .shortRead := by
  cases a with
  | busError => exact .inr (.inl rfl)
  | ok bs =>
    rcases Nat.lt_or_eq_of_le (readCall_admits_le ha) with h | h
    · exact .inr (.inr (if_pos h))
    · exact .inl ⟨bs, h, if_neg h.not_lt⟩

/-- A full frame gives a reading, or with CRC enabled DataIntegrityError (R117, R118). -/
theorem rawResult_cases (cfg : Cfg) (bs : List Byte) :
    (∃ x, rawResult cfg bs = .ok (.reading x)) ∨ (rawResult cfg bs = .err .dataIntegrity ∧ cfg.crcEn = true) := by
  by_cases hpass : checkPasses cfg.crcEn bs = true
  · exact .inl ⟨_, if_pos hpass⟩
  · have hcrc : cfg.crcEn = true := by
      by_contra hoff
      exact hpass (by simp [checkPasses, hoff])
    exact .inr ⟨if_neg hpass, hcrc⟩

/-- The results `RP.READ_RAW` can end in (R116). -/
def IsRawResult (cfg : Cfg) (r : OpResult) : Prop :=
  (∃ x, r = .ok (.reading x)) ∨ r = .err .busError ∨ r = .err .shortRead ∨
    (r = .err .dataIntegrity ∧ cfg.crcEn = true)

theorem readResult_isRawResult {cfg : Cfg} {a : Answer} (ha : cfg.readCall.admits a = true) :
    IsRawResult cfg (readResult cfg (rawResult cfg) a) := by
  rcases readResult_cases (rawResult cfg) ha with ⟨bs, -, hbs⟩ | hbus | hshort
  · rw [hbs]
    exact (rawResult_cases cfg bs).imp_right fun h => .inr (.inr h)
  · exact .inr (.inl hbus)
  · exact .inr (.inr (.inl hshort))

/-- `RP.READ_RAW` does not end in the `Ok` of its write, which takes it on to its read. -/
theorem RawAccess.delivered (h : RawAccess s (.next t)) (hst : s.st = .transacting) (ht : t.st = .idle) :
    ∃ r, t.results = s.results ++ [r] ∧ IsRawResult s.cfg r := by
  cases h with
  | write hno h =>
    obtain ⟨a, rest, ha, hadm, hres⟩ := h.delivered hst ht
    cases a with
    | ok bs => exact absurd (selectCall_admits_nil hadm ▸ ha) (hno rest)
    | busError => exact ⟨_, hres, .inr (.inl rfl)⟩
  | read _ h =>
    obtain ⟨a, _, -, hadm, hres⟩ := h.delivered hst ht
    exact ⟨_, hres, readResult_isRawResult hadm⟩

/-- Settles O39: a pure operation has one next state, and a bus operation ends by the answer to its last call. -/
theorem eachOperationEndsInItsOwnResults : Obligations.EachOperationEndsInItsOwnResults := by
  intro i s t h ht
  cases (exec_next h).2 with
  | computed frame => exact ⟨_, rfl, _, rfl⟩
  | validated frame expected => exact ⟨_, rfl, _, rfl⟩
  | decoded d0 d1 d2 d3 => exact ⟨_, rfl, _, rfl⟩
  | wrote bytes h =>
    obtain ⟨a, _, -, -, hres⟩ := h.delivered rfl ht
    exact ⟨_, hres, writeResult_cases a⟩
  | readFrame h =>
    obtain ⟨a, _, -, hadm, hres⟩ := h.delivered rfl ht
    refine ⟨_, hres, (readResult_cases _ hadm).imp_left ?_⟩
    rintro ⟨bs, hlen, hbs⟩
    exact ⟨bs, hbs, hlen⟩
  | readRaw h => exact h.delivered rfl ht

end Sys2Proof.Machine
end

section
/-! PROOFS. The checksum as polynomial arithmetic (40_crc.md sections 1 and 3): a byte and a frame are polynomials over
the field of two elements, and a shift step is a multiplication by `x` in the ring of residues modulo `G(x)`. The laws
of the checksum are read off in that ring. -/

namespace Sys2Proof

open Polynomial
open Sys2Proof.Config (CrcParams)

/-! ### The polynomial of a byte -/

@[simp] theorem bytePoly_coeff (b : Byte) (i : ℕ) : (bytePoly b).coeff i = if b.getLsbD i then 1 else 0 := by
  have term (k : ℕ) : (if b.getLsbD k then (X : (ZMod 2)[X]) ^ k else 0).coeff i =
      if k = i then (if b.getLsbD i then 1 else 0) else 0 := by
    by_cases hk : k = i
    · subst hk; rw [if_pos rfl]; split <;> simp
    · rw [if_neg hk]; split <;> simp [coeff_X_pow, Ne.symm hk]
  rw [bytePoly, finsetSum_coeff, Finset.sum_congr rfl fun k _ => term k, Finset.sum_ite_eq']
  rcases Nat.lt_or_ge i 8 with hi | hi
  · rw [if_pos (Finset.mem_range.2 hi)]
  · simp [BitVec.getLsbD_of_ge b i hi]

theorem bytePoly_injective : Function.Injective bytePoly := by
  intro a b h
  refine BitVec.eq_of_getLsbD_eq fun i _ => ?_
  have hi := congrArg (coeff · i) h
  simp only [bytePoly_coeff] at hi
  grind

theorem degree_bytePoly_lt (b : Byte) : (bytePoly b).degree < 8 := by
  refine (degree_lt_iff_coeff_zero _ 8).2 fun i hi => ?_
  rw [bytePoly_coeff, BitVec.getLsbD_of_ge b i hi]; rfl

@[simp] theorem bytePoly_zero : bytePoly 0#8 = 0 := by simp [bytePoly]

/-- Exclusive-or is addition. -/
@[simp] theorem bytePoly_xor (a b : Byte) : bytePoly (a ^^^ b) = bytePoly a + bytePoly b := by
  ext i
  rw [coeff_add, bytePoly_coeff, bytePoly_coeff, bytePoly_coeff, BitVec.getLsbD_xor]
  cases a.getLsbD i <;> cases b.getLsbD i <;> decide

theorem bytePoly_twoPow {j : ℕ} (hj : j < 8) : bytePoly (BitVec.twoPow 8 j) = X ^ j := by
  ext i
  rw [bytePoly_coeff, coeff_X_pow, BitVec.getLsbD_twoPow]
  simp [hj, eq_comm]

/-- A shift toward bit 7 is a multiplication by `x` that loses `x^8`. -/
theorem bytePoly_shiftLeft_one (reg : Byte) :
    bytePoly (reg <<< 1) + (if reg[7] then X ^ 8 else 0) = bytePoly reg * X := by
  simp [bytePoly, Finset.sum_range_succ, add_mul, ite_mul, ← pow_succ, ← sq]

/-! ### The polynomial of a frame -/

theorem framePoly_append_byte (frame : List Byte) (b : Byte) :
    framePoly (frame ++ [b]) = framePoly frame * X ^ 8 + bytePoly b := by
  simp [framePoly]

theorem framePoly_cons (b : Byte) (frame : List Byte) :
    framePoly (b :: frame) = bytePoly b * X ^ (8 * frame.length) + framePoly frame := by
  induction frame using List.reverseRecOn with
  | nil => simp [framePoly]
  | append_singleton frame a ih =>
    rw [← List.cons_append, framePoly_append_byte, ih, framePoly_append_byte, List.length_append,
      List.length_singleton]
    ring

theorem framePoly_zipWith_xor {a b : List Byte} (h : a.length = b.length) :
    framePoly (List.zipWith (· ^^^ ·) a b) = framePoly a + framePoly b := by
  induction a generalizing b with
  | nil => rw [List.length_eq_zero_iff.1 h.symm]; simp [framePoly]
  | cons x a ih =>
    cases b with
    | nil => cases h
    | cons y b =>
      have hab : a.length = b.length := Nat.succ.inj h
      rw [List.zipWith_cons_cons, framePoly_cons, framePoly_cons, framePoly_cons, ih hab, bytePoly_xor,
        List.length_zipWith, hab, Nat.min_self]
      ring

/-- A change `e` in byte `i` adds `e(x)`, moved to the place of that byte. -/
theorem framePoly_set_xor {frame : List Byte} {i : ℕ} {b : Byte} (h : frame[i]? = some b) (e : Byte) :
    framePoly (frame.set i (b ^^^ e)) = framePoly frame + bytePoly e * X ^ (8 * (frame.length - 1 - i)) := by
  induction frame generalizing i with
  | nil => cases h
  | cons a frame ih =>
    cases i with
    | zero =>
      obtain rfl : a = b := Option.some.inj h
      rw [List.set_cons_zero, framePoly_cons, framePoly_cons, bytePoly_xor, List.length_cons, Nat.add_sub_cancel,
        Nat.sub_zero]
      ring
    | succ i =>
      have place : (a :: frame).length - 1 - (i + 1) = frame.length - 1 - i := by rw [List.length_cons]; omega
      rw [List.set_cons_succ, framePoly_cons, framePoly_cons, ih h, List.length_set, place, add_assoc]

/-! ### The ring of residues -/

theorem generator_monic (p : CrcParams) : (generator p).Monic := monic_X_pow_add (degree_bytePoly_lt p.poly)

theorem degree_generator (p : CrcParams) : (generator p).degree = 8 :=
  (degree_add_eq_left_of_degree_lt ((degree_bytePoly_lt p.poly).trans_eq (degree_X_pow 8).symm)).trans (degree_X_pow 8)

/-- The residue of a polynomial modulo `G(x)`. -/
noncomputable abbrev residue (p : CrcParams) : (ZMod 2)[X] →+* AdjoinRoot (generator p) := AdjoinRoot.mk (generator p)

/-- A byte is the remainder of a polynomial exactly when the two have one residue. -/
theorem bytePoly_eq_modByMonic_iff (p : CrcParams) (b : Byte) (f : (ZMod 2)[X]) :
    bytePoly b = f %ₘ generator p ↔ residue p (bytePoly b) = residue p f := by
  have hg := generator_monic p
  have hb : bytePoly b %ₘ generator p = bytePoly b :=
    (modByMonic_eq_self_iff hg).2 ((degree_bytePoly_lt b).trans_eq (degree_generator p).symm)
  constructor
  · intro h
    rw [h, ← AdjoinRoot.modByMonicHom_mk hg, AdjoinRoot.mk_leftInverse hg]
  · intro h
    rw [← hb, ← AdjoinRoot.modByMonicHom_mk hg, h, AdjoinRoot.modByMonicHom_mk hg]

/-- `x^8` and the generator's low byte have one residue (40_crc.md section 1). -/
theorem residue_X_pow_eight (p : CrcParams) : residue p (X ^ 8) = residue p (bytePoly p.poly) :=
  AdjoinRoot.mk_eq_mk.2 (by rw [CharTwo.sub_eq_add, generator])

/-- A generator other than `x^8` divides no power of `x`: a monic divisor of a power of `x` is itself one. -/
theorem generator_not_dvd_X_pow {p : CrcParams} (hp : p.poly ≠ 0#8) (n : ℕ) : ¬ generator p ∣ X ^ n := by
  intro h
  obtain ⟨m, -, hm⟩ := (dvd_prime_pow prime_X n).1 h
  have hgen : generator p = X ^ m := eq_of_monic_of_associated (generator_monic p) (monic_X_pow m) hm
  have hdeg : (8 : WithBot ℕ) = m := by rw [← degree_generator p, hgen, degree_X_pow]
  obtain rfl : 8 = m := by exact_mod_cast hdeg
  rw [generator, add_eq_left] at hgen
  exact hp (bytePoly_injective (hgen.trans bytePoly_zero.symm))

end Sys2Proof
end

section
/-! PROOFS. The laws of the checksum (40_crc.md R80 to R89, section 3): the shift step and the absorption of a byte in
the ring of residues, and from there the statements about frames, zeros, single-bit errors and the residue form. -/

namespace Sys2Proof.Machine

open Polynomial
open Sys2Proof.Config (CrcParams)

/-! ### One shift step (R80) -/

theorem crcBit_of_msbFirst {p : CrcParams} (hp : p.msbFirst = true) (reg : Byte) :
    crcBit p reg = (reg <<< 1) ^^^ (if reg[7] then p.poly else 0#8) := by
  rw [crcBit, if_pos hp]
  split
  · rfl
  · rw [BitVec.xor_zero]

theorem crcBit_zero (p : CrcParams) : crcBit p 0#8 = 0#8 := by simp [crcBit]

theorem crcBit_getLsbD {p : CrcParams} (hp : p.msbFirst = true) (reg : Byte) {i : ℕ} (hi : i < 8) :
    (crcBit p reg).getLsbD i = ((decide (0 < i) && reg.getLsbD (i - 1)) ^^ (reg[7] && p.poly.getLsbD i)) := by
  rw [crcBit_of_msbFirst hp, BitVec.getLsbD_xor, BitVec.getLsbD_shiftLeft]
  cases reg[7] <;> grind

theorem residue_crcBit {p : CrcParams} (hp : p.msbFirst = true) (reg : Byte) :
    residue p (bytePoly (crcBit p reg)) = residue p (bytePoly reg * X) := by
  rw [crcBit_of_msbFirst hp, ← bytePoly_shiftLeft_one, bytePoly_xor, map_add, map_add]
  cases reg[7] with
  | true => exact congrArg _ (residue_X_pow_eight p).symm
  | false => simp

/-- Settles O12: bit by bit from the two branches of the step; in polynomials, losing `x^8` and adding the low byte of
`G` is one subtraction of `G`. -/
theorem crcBitShiftsTowardBitSeven : Obligations.CrcBitShiftsTowardBitSeven := by
  intro p reg hp
  have step := crcBit_of_msbFirst hp reg
  exact ⟨fun h => by rw [step, if_pos h], fun h => by simp [step, h], fun i hi => crcBit_getLsbD hp reg hi,
    (bytePoly_eq_modByMonic_iff p _ _).2 (residue_crcBit hp reg)⟩

/-! ### Absorbing a byte, and the bytes of a frame (R81, R82) -/

theorem crcBits_eq_iterate (p : CrcParams) (n : ℕ) (c : Byte) : crcBits p n c = (crcBit p)^[n] c := by
  induction n generalizing c with
  | zero => rfl
  | succ n ih => exact ih (crcBit p c)

theorem crcByte_eq_iterate (p : CrcParams) (c b : Byte) : crcByte p c b = (crcBit p)^[8] (c ^^^ b) :=
  crcBits_eq_iterate p 8 _

theorem iterate_crcBit_zero (p : CrcParams) (n : ℕ) : (crcBit p)^[n] 0#8 = 0#8 :=
  Function.iterate_fixed (crcBit_zero p) n

theorem crcByte_self (p : CrcParams) (c : Byte) : crcByte p c c = 0#8 := by
  rw [crcByte_eq_iterate, BitVec.xor_self, iterate_crcBit_zero]

theorem residue_iterate_crcBit {p : CrcParams} (hp : p.msbFirst = true) (n : ℕ) (c : Byte) :
    residue p (bytePoly ((crcBit p)^[n] c)) = residue p (bytePoly c * X ^ n) := by
  induction n generalizing c with
  | zero => simp
  | succ n ih => rw [Function.iterate_succ_apply, ih, map_mul, residue_crcBit hp, ← map_mul, mul_assoc, ← pow_succ']

theorem residue_crcByte {p : CrcParams} (hp : p.msbFirst = true) (c b : Byte) :
    residue p (bytePoly (crcByte p c b)) = residue p (bytePoly (c ^^^ b) * X ^ 8) := by
  rw [crcByte_eq_iterate, residue_iterate_crcBit hp]

section Standard

variable {p : CrcParams}

theorem StandardParams.msbFirst (hp : StandardParams p) : p.msbFirst = true := hp.2.2

theorem crc8_eq_foldl (hp : StandardParams p) (frame : List Byte) : crc8 p frame = frame.foldl (crcByte p) 0#8 := by
  obtain ⟨hinit, hout, -⟩ := hp
  rw [crc8, hinit, hout]; exact BitVec.xor_zero

theorem crc8_empty (hp : StandardParams p) : crc8 p [] = 0#8 := crc8_eq_foldl hp []

theorem crc8_append_byte (hp : StandardParams p) (frame : List Byte) (b : Byte) :
    crc8 p (frame ++ [b]) = crcByte p (crc8 p frame) b := by
  rw [crc8_eq_foldl hp, crc8_eq_foldl hp, List.foldl_append, List.foldl_cons, List.foldl_nil]

end Standard

/-- Settles O13: eight shift steps are eight multiplications by `x`, and the last byte of a frame acts last. -/
theorem checksumAbsorbsBytesInOrder : Obligations.ChecksumAbsorbsBytesInOrder :=
  ⟨fun p c b =>
      ⟨crcByte_eq_iterate p c b, fun hp => (bytePoly_eq_modByMonic_iff p _ _).2 (residue_crcByte hp c b)⟩,
    fun _ hp => ⟨crc8_empty hp, crc8_append_byte hp⟩⟩

/-! ### The checksum of a frame (section 1) -/

/-- Settles O14: by induction on the frame from its end, each byte multiplying by `x^8` modulo `G`. -/
theorem checksumIsPolynomialRemainder : Obligations.ChecksumIsPolynomialRemainder := by
  intro p frame hp
  rw [bytePoly_eq_modByMonic_iff]
  induction frame using List.reverseRecOn with
  | nil => rw [crc8_empty hp]; simp [framePoly]
  | append_singleton frame b ih =>
    rw [crc8_append_byte hp, residue_crcByte hp.msbFirst, framePoly_append_byte, bytePoly_xor, map_mul, map_add, ih,
      ← map_add, ← map_mul]

/-! ### Zero bytes and the generator in the checksum (section 3, R83, R89) -/

section Standard

variable {p : CrcParams} (hp : StandardParams p)
include hp

theorem crc8_zero_cons (frame : List Byte) : crc8 p (0#8 :: frame) = crc8 p frame := by
  rw [crc8_eq_foldl hp, crc8_eq_foldl hp, List.foldl_cons, crcByte_self]

theorem crc8_replicate_zero (n : ℕ) : crc8 p (List.replicate n 0#8) = 0#8 := by
  induction n with
  | zero => exact crc8_empty hp
  | succ n ih => rw [List.replicate_succ, crc8_zero_cons hp, ih]

/-- The checksum of `[0x01]` is `x^8` modulo `G`. -/
theorem crc8_one : crc8 p [1#8] = p.poly := by
  have hone : bytePoly 1#8 = 1 := bytePoly_twoPow (j := 0) (by decide)
  refine bytePoly_injective ((checksumIsPolynomialRemainder p [1#8] hp).trans ?_)
  rw [eq_comm, bytePoly_eq_modByMonic_iff, ← residue_X_pow_eight]
  simp [framePoly, hone]

/-- With polynomial `0x00` the generator is `x^8`, which divides `M(x) * x^8`. -/
theorem crc8_of_poly_zero (hz : p.poly = 0#8) (frame : List Byte) : crc8 p frame = 0#8 := by
  have hgen : generator p = X ^ 8 := by rw [generator, hz, bytePoly_zero, add_zero]
  refine bytePoly_injective ((checksumIsPolynomialRemainder p frame hp).trans ?_)
  rw [bytePoly_zero, modByMonic_eq_zero_iff_dvd (generator_monic p), hgen]
  exact dvd_mul_left _ _

end Standard

theorem checksumsAgree_iff {c e : Byte} : checksumsAgree c e = true ↔ c = e := beq_iff_eq

theorem checksumsAgree_of_ne {c e : Byte} (h : c ≠ e) : checksumsAgree c e = false := beq_false_of_ne h

/-- Settles O18: a leading zero byte leaves the register at zero. -/
theorem zeroBytesLeaveTheChecksum : Obligations.ZeroBytesLeaveTheChecksum := by
  intro p hp
  exact ⟨crcByte_self p 0, crc8_replicate_zero hp, crc8_zero_cons hp,
    checksumsAgree_iff.2 (crc8_replicate_zero hp 4),
    fun frame => ⟨0 :: frame, (Nat.lt_succ_self _).ne', crc8_zero_cons hp frame⟩⟩

theorem polyOfIndex_ne_zero (i : Fin 255) : Config.polyOfIndex i ≠ 0 := by
  intro h
  have hi := congrArg BitVec.toNat h
  simp [Config.polyOfIndex] at hi
  omega

theorem exists_polyOfIndex {b : Byte} (hb : b ≠ 0) : ∃ i, Config.polyOfIndex i = b := by
  have hpos : 0 < b.toNat := Nat.pos_of_ne_zero fun h => hb (BitVec.eq_of_toNat_eq h)
  refine ⟨⟨b.toNat - 1, by omega⟩, BitVec.eq_of_toNat_eq ?_⟩
  simp only [Config.polyOfIndex, BitVec.toNat_ofNat]
  omega

/-- Settles O19: with generator `x^8` every checksum is `0x00`, also that of a frame with one bit changed. -/
theorem zeroPolynomialIsExcluded : Obligations.ZeroPolynomialIsExcluded := by
  refine ⟨fun p hp hz => ?_, ⟨rfl, rfl, rfl⟩, crcPoly_ne_zero,
    fun b => ⟨exists_polyOfIndex, fun ⟨i, hi⟩ => hi ▸ polyOfIndex_ne_zero i⟩⟩
  have crc_zero := crc8_of_poly_zero hp hz
  refine ⟨fun c => ?_, fun frame => ⟨crc_zero frame, checksumsAgree_iff.2 (crc_zero frame)⟩,
    [0], 0, 0, 0, rfl, by decide, checksumsAgree_iff.2 ((crc_zero _).trans (crc_zero _).symm)⟩
  simp [crcBit_of_msbFirst hp.msbFirst, hz]

/-! ### The residue form (section 3) -/

/-- With bit 0 of the polynomial equal to 1, bit 0 of the result tells bit 7 of the register, and then the other bits
tell the rest. -/
theorem crcBit_injective {p : CrcParams} (hp : p.msbFirst = true) (h0 : p.poly[0] = true) :
    Function.Injective (crcBit p) := by
  intro a b hab
  have bits (i : ℕ) (hi : i < 8) := by
    simpa only [crcBit_getLsbD hp _ hi] using congrArg (BitVec.getLsbD · i) hab
  have top : a[7] = b[7] := by simpa [h0] using bits 0 (by decide)
  refine BitVec.eq_of_getLsbD_eq fun i hi => ?_
  rcases Nat.lt_or_ge (i + 1) 8 with hlt | hge
  · simpa [top] using bits (i + 1) hlt
  · obtain rfl : i = 7 := by omega
    exact top

theorem eq_zero_of_iterate_crcBit {p : CrcParams} (hinj : Function.Injective (crcBit p)) {n : ℕ} {c : Byte}
    (h : (crcBit p)^[n] c = 0#8) : c = 0#8 :=
  hinj.iterate n (h.trans (iterate_crcBit_zero p n).symm)

/-- Settles O15: the residue is eight shifts of the difference of the two check bytes. With polynomial `0x02` the
generator is `x * (x^7 + 1)`, and the wrong check byte `0x81` of the empty frame gives `0x00`. -/
theorem residueTestMatchesValidate : Obligations.ResidueTestMatchesValidate := by
  refine ⟨fun p frame hp => ?_, fun p hp h0 => ?_, ⟨0x02, 0x00, 0x00, true⟩, [], 0x81, ⟨rfl, rfl, rfl⟩, ?_⟩
  · have appended (e : Byte) : crc8 p (frame ++ [e]) = (crcBit p)^[8] (crc8 p frame ^^^ e) := by
      rw [crc8_append_byte hp, crcByte_eq_iterate]
    refine ⟨(crc8_append_byte hp frame _).trans (crcByte_self p _), appended, fun hker e => ?_⟩
    rw [checksumsAgree_iff, appended, ← BitVec.xor_eq_zero_iff]
    exact ⟨fun h => h ▸ iterate_crcBit_zero p 8, hker _⟩
  · have hinj := crcBit_injective hp h0
    exact ⟨Finite.injective_iff_bijective.1 hinj, fun c => eq_zero_of_iterate_crcBit hinj⟩
  · exact ⟨by rw [PolyAdmissible]; decide, by decide, by decide, by decide⟩

/-! ### Single-bit errors (section 3) -/

/-- The checksum is linear. -/
theorem crc8_zipWith_xor {p : CrcParams} (hp : StandardParams p) {a b : List Byte} (h : a.length = b.length) :
    crc8 p (List.zipWith (· ^^^ ·) a b) = crc8 p a ^^^ crc8 p b := by
  have remainder (frame : List Byte) := checksumIsPolynomialRemainder p frame hp
  apply bytePoly_injective
  rw [bytePoly_xor, remainder, remainder, remainder, framePoly_zipWith_xor h, add_mul, add_modByMonic]

/-- What a change of bit `j` of byte `i` does to the checksum. -/
theorem bytePoly_crc8_set_twoPow {p : CrcParams} (hp : StandardParams p) {frame : List Byte} {i j : ℕ} {b : Byte}
    (h : frame[i]? = some b) (hj : j < 8) :
    bytePoly (crc8 p (frame.set i (b ^^^ BitVec.twoPow 8 j)) ^^^ crc8 p frame) =
      X ^ (8 * (frame.length - 1 - i) + j + 8) %ₘ generator p := by
  have remainder (frame : List Byte) := checksumIsPolynomialRemainder p frame hp
  rw [bytePoly_xor, remainder, remainder, ← add_modByMonic, framePoly_set_xor h, bytePoly_twoPow hj, ← add_mul,
    add_right_comm, CharTwo.add_self_eq_zero, zero_add]
  ring_nf

/-- For an admissible polynomial no change of one bit leaves the checksum as it was. -/
theorem crc8_set_twoPow_ne {p : CrcParams} (hp : StandardParams p) (hpoly : PolyAdmissible p) {frame : List Byte}
    {i j : ℕ} {b : Byte} (h : frame[i]? = some b) (hj : j < 8) :
    crc8 p (frame.set i (b ^^^ BitVec.twoPow 8 j)) ≠ crc8 p frame := by
  intro heq
  have difference := bytePoly_crc8_set_twoPow hp h hj
  rw [heq, BitVec.xor_self, bytePoly_zero, eq_comm, modByMonic_eq_zero_iff_dvd (generator_monic p)] at difference
  exact generator_not_dvd_X_pow hpoly _ difference

/-- A byte with one bit changed is another byte. -/
theorem ne_xor_twoPow (c : Byte) {j : ℕ} (hj : j < 8) : c ≠ c ^^^ BitVec.twoPow 8 j := by
  intro h
  have hbit := congrArg bytePoly h
  rw [bytePoly_xor, bytePoly_twoPow hj, left_eq_add] at hbit
  exact (monic_X_pow j).ne_zero hbit

/-- Settles O16: the changed bit adds a power of `x`, which an admissible generator does not divide. -/
theorem singleBitErrorsAreDetected : Obligations.SingleBitErrorsAreDetected := by
  intro p hp
  refine ⟨fun a b => crc8_zipWith_xor hp,
    fun frame i j b h hj => ⟨bytePoly_crc8_set_twoPow hp h hj, fun hpoly => ?_⟩,
    fun frame j hj => checksumsAgree_of_ne (ne_xor_twoPow _ hj)⟩
  have detected := crc8_set_twoPow_ne hp hpoly h hj
  exact ⟨mt BitVec.xor_eq_zero_iff.1 detected, checksumsAgree_of_ne detected⟩

/-! ### The operations at Idle (R83, R84) -/

/-- The worked example of R83 and R84. -/
theorem crc8_workedExample : crc8 ⟨0x31, 0x00, 0x00, true⟩ [0x79, 0x39, 0x2B, 0x4E] = 0x02 := by decide +kernel

/-- Settles O20: the register loop computes `crc8(frame)`. -/
theorem crcComputeDeliversTheChecksum : Obligations.CrcComputeDeliversTheChecksum :=
  ⟨fun frame _ h => exec_crcCompute frame h,
    fun _ hp => ⟨crc8_empty hp, crc8_replicate_zero hp, crc8_one hp⟩,
    crc8_workedExample⟩

theorem checksumsAgree_eq_decide (c e : Byte) : checksumsAgree c e = decide (c = e) := rfl

/-- Settles O21: the checksum is compared, whatever the comparison says. -/
theorem crcValidateDeliversTheComparison : Obligations.CrcValidateDeliversTheComparison :=
  ⟨fun frame expected _ h => by rw [exec_crcValidate frame expected h, checksumsAgree_eq_decide],
    fun _ hp => ⟨checksumsAgree_iff.2 (crc8_empty hp), checksumsAgree_iff.2 (crc8_replicate_zero hp 4)⟩,
    checksumsAgree_iff.2 crc8_workedExample, by rw [crc8_workedExample]; decide⟩

/-- Settles O22: the delivered byte is the checksum of the frame, which no state enters. -/
theorem validateAcceptsTheComputedChecksum : Obligations.ValidateAcceptsTheComputedChecksum := by
  intro frame s₁ s₂ s₃ h₁ h₂ h₃
  have agrees : checksumsAgree (crc8 Config.crc frame) (crc8 Config.crc frame) = true := checksumsAgree_iff.2 rfl
  refine ⟨crc8 Config.crc frame, _, _, _, exec_crcCompute frame h₁, rfl, exec_crcCompute frame h₂, rfl,
    exec_crcValidate frame _ h₃, ?_⟩
  rw [agrees]

end Sys2Proof.Machine
end

section
/-! PROOFS. The register-read assembler (41_assembler.md R100 to R104, section 3): the byte pair of a count is the
concatenation of its bytes, its reading is Lean's two's complement reading of a bit vector, and both have inverses. -/

namespace Sys2Proof.Machine

/-! ### The two bytes of a count (R100) -/

/-- `be16(hi, lo) = {hi, lo}`. -/
theorem be16_eq_append (hi lo : Byte) : be16 hi lo = hi ++ lo := by
  rw [be16, BitVec.append_def, BitVec.shiftLeftZeroExtend_eq, BitVec.setWidth'_eq]

theorem be16_toNat (hi lo : Byte) : (be16 hi lo).toNat = hi.toNat * 256 + lo.toNat := by
  rw [be16_eq_append, BitVec.toNat_append, ← Nat.shiftLeft_add_eq_or_of_lt lo.isLt, Nat.shiftLeft_eq]

@[simp] theorem be16_highByte (hi lo : Byte) : (be16 hi lo).extractLsb' 8 8 = hi := by
  rw [be16_eq_append, BitVec.extractLsb'_append_eq_left]

@[simp] theorem be16_lowByte (hi lo : Byte) : (be16 hi lo).extractLsb' 0 8 = lo := by
  rw [be16_eq_append, BitVec.extractLsb'_append_eq_right]

theorem be16_signBit (hi lo : Byte) : (be16 hi lo)[15] = hi[7] := by
  simp only [be16_eq_append]
  exact BitVec.getElem_append (by decide)

/-- Every 16-bit vector is assembled from its two bytes. -/
@[simp] theorem be16_bytes (v : Count16) : be16 (v.extractLsb' 8 8) (v.extractLsb' 0 8) = v := by
  rw [be16_eq_append, BitVec.extractLsb'_append_extractLsb'_eq_extractLsb' (rfl : 8 = 0 + 8),
    BitVec.extractLsb'_eq_self]

/-! ### The signed reading of a count (R101, R104) -/

theorem s16_of_signBit_false {v : Count16} (h : v[15] = false) : s16 v = v.toNat := by
  rw [s16, h]; rfl

theorem s16_of_signBit_true {v : Count16} (h : v[15] = true) : s16 v = (v.toNat : Int) - 65536 := by
  rw [s16, h]; rfl

/-- The model's reading of a count is the library's reading of a bit vector. -/
theorem s16_eq_toInt (v : Count16) : s16 v = v.toInt := by
  have hmsb : v.msb = v[15] := BitVec.msb_eq_getLsbD_last v
  rw [BitVec.toInt_eq_msb_cond, hmsb, s16]; rfl

theorem s16_ge (v : Count16) : -32768 ≤ s16 v := s16_eq_toInt v ▸ BitVec.le_toInt v

theorem s16_le (v : Count16) : s16 v ≤ 32767 := Int.le_of_lt_add_one (s16_eq_toInt v ▸ BitVec.toInt_lt)

@[simp] theorem countBits_s16 (v : Count16) : countBits (s16 v) = v := by
  rw [s16_eq_toInt, countBits, BitVec.ofInt_toInt]

theorem s16_countBits {n : Int} (hlo : -32768 ≤ n) (hhi : n ≤ 32767) : s16 (countBits n) = n := by
  rw [s16_eq_toInt, countBits, BitVec.toInt_ofInt]
  exact Int.bmod_eq_of_le (by omega) (by omega)

/-- The bits of a count, as R104 gives them. -/
theorem countBits_toNat {n : Int} (hlo : -32768 ≤ n) (hhi : n ≤ 32767) :
    (countBits n).toNat = (if 0 ≤ n then n else n + 65536).toNat := by
  rw [countBits, BitVec.toNat_ofInt]
  split <;> omega

/-! ### The reading and its inverse (R103, R104, section 3) -/

theorem encodeReading_decodeReading (d0 d1 d2 d3 : Byte) :
    encodeReading (decodeReading d0 d1 d2 d3) = [d0, d1, d2, d3] := by
  simp [encodeReading, decodeReading]

/-- Settles O25: each count is read and written back by itself, through its 16 bits. -/
theorem decodeIsABijection : Obligations.DecodeIsABijection := by
  refine ⟨?_, fun p t hp hp' ht ht' => ⟨_, _, _, _, rfl, ?_, ?_, ?_⟩⟩
  · rintro d0 d1 d2 d3 _ rfl
    exact ⟨s16_ge _, s16_le _, s16_ge _, s16_le _, encodeReading_decodeReading d0 d1 d2 d3⟩
  · simp [decodeReading, s16_countBits, hp, hp', ht, ht']
  · rw [be16_bytes, countBits_toNat hp hp']
  · rw [be16_bytes, countBits_toNat ht ht']

/-- Settles O23: sign extension keeps the two's complement reading. -/
theorem countsAreBigEndianTwosComplement : Obligations.CountsAreBigEndianTwosComplement := by
  refine ⟨fun hi lo => ⟨be16_toNat hi lo, be16_highByte hi lo, be16_lowByte hi lo, be16_signBit hi lo⟩,
    fun v => ⟨fun h => ?_, fun h => ?_, fun n hn => ?_⟩⟩
  · have hs := s16_of_signBit_false h
    exact ⟨hs, by omega, s16_le v⟩
  · have hs := s16_of_signBit_true h
    exact ⟨hs, s16_ge v, by omega⟩
  · rw [s16_eq_toInt, BitVec.toInt_signExtend_of_le hn.le]

/-- Settles O24: the reading is delivered as `exec_asmDecode` says, and the examples are computed. -/
theorem asmDecodeDeliversTheReading : Obligations.AsmDecodeDeliversTheReading :=
  ⟨fun d0 d1 d2 d3 _ h => exec_asmDecode d0 d1 d2 d3 h, by decide, by decide, by decide, by decide, by decide⟩

end Sys2Proof.Machine
end

section
/-! PROOFS. The register-read family (42_register_protocol.md R110 to R122, section 3): each operation by the answers at
hand, what a full frame gives in `RP.READ_RAW`, and the operations one after the other. -/

namespace Sys2Proof.Machine

variable {s t : State}

/-! ### A bus access by the answer at hand -/

section Access

variable {c : BusCall} {result : Answer → OpResult} {o : Result}

theorem Access.eq_of_silent (h : Access c result s o) (ha : s.answers = []) :
    o = .next { s with call := some c } := by
  cases h with
  | waits _ => rfl
  | ends h _ | notCarried h _ => cases ha.symm.trans h

/-- Issued once more with no answer there, an outstanding call changes nothing. -/
theorem Access.eq_self_of_silent (h : Access c result s o) (ha : s.answers = []) (hc : s.call = some c) :
    o = .next s := by
  rw [h.eq_of_silent ha, ← hc]

theorem Access.eq_of_answer {a : Answer} {rest : List Answer} (h : Access c result s o) (ha : s.answers = a :: rest)
    (hadm : c.admits a = true) : o = .next (s.ended (result a) rest [c.event a]) := by
  cases h with
  | waits h => cases ha.symm.trans h
  | ends h _ => cases ha.symm.trans h; rfl
  | notCarried h hno => cases ha.symm.trans h; cases hadm.symm.trans hno

/-- A bus access that delivers a result has ended by the answer it drew. -/
theorem Access.ended_of_delivered {r : OpResult} (h : Access c result s (.next t))
    (hr : t.results = s.results ++ [r]) :
    ∃ a rest, s.answers = a :: rest ∧ c.admits a = true ∧ result a = r ∧ t = s.ended r rest [c.event a] := by
  cases h with
  | waits _ => simp at hr
  | @ends a rest h ha =>
    obtain rfl : result a = r := by simpa using hr
    exact ⟨a, rest, h, ha, rfl, rfl⟩

end Access

/-- With its write answered `Ok`, what `RP.READ_RAW` does is its read. -/
theorem RawAccess.of_selected {o : Result} {rest : List Answer} (h : RawAccess s o) (ha : s.answers = .ok [] :: rest) :
    Access s.cfg.readCall (readResult s.cfg (rawResult s.cfg)) (s.selected rest) o := by
  cases h with
  | write hno _ => exact absurd ha (hno rest)
  | read h hr => cases ha.symm.trans h; exact hr

/-- With any other answer to its write at hand, or none, it is its write. -/
theorem RawAccess.of_not_selected {o : Result} (h : RawAccess s o) (hno : ∀ rest, s.answers ≠ .ok [] :: rest) :
    Access s.cfg.selectCall writeResult s o := by
  cases h with
  | write _ h => exact h
  | read h _ => exact absurd h (hno _)

/-! ### The operations by the answers at hand -/

/-- Settles O26, by evaluation. -/
theorem requestedLengthFollowsCrcEnable : Obligations.RequestedLengthFollowsCrcEnable :=
  ⟨rfl, rfl, fun _ => rfl⟩

theorem exec_rpWriteCommand_answered {a : Answer} {rest : List Answer} (bytes : List Byte) (hst : s.st = .idle)
    (ha : s.answers = a :: rest) (hadm : (BusCall.write s.cfg.i2cAddress bytes).admits a = true) :
    exec (.rpWriteCommand bytes) s =
      .next (s.ended (writeResult a) rest [.write s.cfg.i2cAddress bytes a]) :=
  (exec_rpWriteCommand bytes hst).trans
    ((writeCommand_access bytes (s.begin .writeCommand)).eq_of_answer ha hadm)

theorem exec_rpReadFrame_answered {a : Answer} {rest : List Answer} (hst : s.st = .idle)
    (ha : s.answers = a :: rest) (hadm : s.cfg.readCall.admits a = true) :
    exec .rpReadFrame s =
      .next (s.ended (readResult s.cfg (fun bs => .ok (.frame bs)) a) rest [s.cfg.readCall.event a]) :=
  (exec_rpReadFrame hst).trans ((readFrame_access (s.begin .readFrame)).eq_of_answer ha hadm)

/-- What `RP.READ_RAW` does at Idle. -/
theorem exec_rpReadRaw_access (hst : s.st = .idle) :
    RawAccess ((s.begin .readRaw).setPh .write) (exec .rpReadRaw s) :=
  exec_rpReadRaw hst ▸ rawWrite_access _

/-- An operation in its read phase that ends has recorded its write and its read. -/
theorem selected_ended (r : OpResult) (rest rest' : List Answer) (e : BusEvent) :
    (s.selected rest).ended r rest' [e] = s.ended r rest' [s.cfg.selectCall.event (.ok []), e] :=
  ended_answered s s.cfg.selectCall (.ok []) rest rest' r [e]

theorem exec_rpReadRaw_answered {a : Answer} {rest : List Answer} (hst : s.st = .idle)
    (ha : s.answers = .ok [] :: a :: rest) (hadm : s.cfg.readCall.admits a = true) :
    exec .rpReadRaw s =
      .next (s.ended (readResult s.cfg (rawResult s.cfg) a) rest
        [s.cfg.selectCall.event (.ok []), s.cfg.readCall.event a]) := by
  rw [((exec_rpReadRaw_access hst).of_selected ha).eq_of_answer rfl hadm, selected_ended]
  rfl

theorem exec_rpReadRaw_busError {rest : List Answer} (hst : s.st = .idle) (ha : s.answers = .busError :: rest) :
    exec .rpReadRaw s = .next (s.ended (.err .busError) rest [s.cfg.selectCall.event .busError]) :=
  ((exec_rpReadRaw_access hst).of_not_selected (by simp [ha])).eq_of_answer ha rfl

/-! ### The answer to a read (R113 to R115) -/

section ReadResult

variable {cfg : Cfg} {bs : List Byte}

theorem readCall_admits_of_le (h : bs.length ≤ frameBytes cfg.crcEn) : cfg.readCall.admits (.ok bs) = true :=
  decide_eq_true h

theorem readResult_short (onFull : List Byte → OpResult) (h : bs.length < frameBytes cfg.crcEn) :
    readResult cfg onFull (.ok bs) = .err .shortRead := if_pos h

theorem readResult_full (onFull : List Byte → OpResult) (h : bs.length = frameBytes cfg.crcEn) :
    readResult cfg onFull (.ok bs) = onFull bs := if_neg h.not_lt

/-- A read whose result is a value brought a full frame. -/
theorem readResult_eq_ok {onFull : List Byte → OpResult} {a : Answer} {v : OpValue}
    (ha : cfg.readCall.admits a = true) (h : readResult cfg onFull a = .ok v) :
    ∃ bs, a = .ok bs ∧ bs.length = frameBytes cfg.crcEn ∧ onFull bs = .ok v := by
  cases a with
  | busError => cases h
  | ok bs =>
    rcases Nat.lt_or_eq_of_le (readCall_admits_le ha) with hlt | heq
    · cases (readResult_short onFull hlt).symm.trans h
    · exact ⟨bs, rfl, heq, (readResult_full onFull heq).symm.trans h⟩

end ReadResult

/-- Settles O27, from the one write of the operation. -/
theorem writeCommandCompletesByTheAnswer : Obligations.WriteCommandCompletesByTheAnswer :=
  fun bytes _ _ hst => ⟨fun ha => exec_rpWriteCommand_answered bytes hst ha rfl,
    fun ha => exec_rpWriteCommand_answered bytes hst ha rfl⟩

/-- `RP.READ_FRAME` on a full frame. -/
theorem exec_rpReadFrame_full {bs : List Byte} {rest : List Answer} (hst : s.st = .idle)
    (ha : s.answers = .ok bs :: rest) (hlen : bs.length = frameBytes s.cfg.crcEn) :
    exec .rpReadFrame s = .next (s.ended (.ok (.frame bs)) rest [s.cfg.readCall.event (.ok bs)]) := by
  rw [exec_rpReadFrame_answered hst ha (readCall_admits_of_le hlen.le), readResult_full _ hlen]

/-- Settles O28, from the one read of the operation. -/
theorem readFrameCompletesByTheAnswer : Obligations.ReadFrameCompletesByTheAnswer := by
  refine fun s rest hst => ⟨fun bs => exec_rpReadFrame_full hst, fun bs ha hlen => ?_,
    fun ha => exec_rpReadFrame_answered hst ha rfl⟩
  rw [exec_rpReadFrame_answered hst ha (readCall_admits_of_le hlen.le), readResult_short _ hlen]
  rfl

/-! ### A full frame in `RP.READ_RAW` (R117, R118) -/

/-- What follows the four data bytes of a frame that passes the check: with CRC enabled their checksum. -/
def checkBytes (crcEn : Bool) (data : List Byte) : List Byte := if crcEn then [crc8 Config.crc data] else []

section FullFrame

variable {cfg : Cfg} {d0 d1 d2 d3 : Byte} {tail : List Byte}

theorem length_of_checkBytes (h : tail = checkBytes cfg.crcEn [d0, d1, d2, d3]) :
    (d0 :: d1 :: d2 :: d3 :: tail).length = frameBytes cfg.crcEn := by
  rw [h]
  cases cfg.crcEn <;> rfl

/-- A full frame passes the check exactly when the bytes after its data bytes are those of the check. -/
theorem checkPasses_iff {crcEn : Bool} {data : List Byte} (h4 : data.length = 4)
    (hlen : (data ++ tail).length = frameBytes crcEn) :
    checkPasses crcEn (data ++ tail) = true ↔ tail = checkBytes crcEn data := by
  rw [List.length_append, h4] at hlen
  cases crcEn with
  | false =>
    obtain rfl : tail = [] := List.eq_nil_of_length_eq_zero (Nat.add_left_cancel hlen)
    exact iff_of_true rfl rfl
  | true =>
    obtain ⟨k, rfl⟩ : ∃ k, tail = [k] := List.length_eq_one_iff.1 (Nat.add_left_cancel hlen)
    have hk : (data ++ [k])[4]? = some k := h4 ▸ List.getElem?_concat_length
    have hpass : checkPasses true (data ++ [k]) = checksumsAgree (crc8 Config.crc data) k := by
      rw [checkPasses, hk, List.take_left' h4]; rfl
    rw [hpass, checksumsAgree_iff, eq_comm]
    exact List.singleton_inj.symm

theorem rawResult_of_checkBytes (h : tail = checkBytes cfg.crcEn [d0, d1, d2, d3]) :
    rawResult cfg (d0 :: d1 :: d2 :: d3 :: tail) = .ok (.reading (decodeReading d0 d1 d2 d3)) :=
  if_pos ((checkPasses_iff (data := [d0, d1, d2, d3]) rfl (length_of_checkBytes h)).2 h)

theorem length_data_check {data : List Byte} (k : Byte) (hcrc : cfg.crcEn = true) (hlen : data.length = 4) :
    (data ++ [k]).length = frameBytes cfg.crcEn := by
  rw [List.length_append, hlen, hcrc]; rfl

/-- A frame whose checksum is wrong is DataIntegrityError, with CRC enabled. -/
theorem rawResult_of_mismatch {data : List Byte} {k : Byte} (hcrc : cfg.crcEn = true) (hlen : data.length = 4)
    (hne : crc8 Config.crc data ≠ k) : rawResult cfg (data ++ [k]) = .err .dataIntegrity := by
  refine if_neg fun hpass => hne ?_
  have hk := (checkPasses_iff hlen (length_data_check k hcrc hlen)).1 hpass
  rw [hcrc] at hk
  exact (List.singleton_inj.1 hk).symm

theorem exists_dataBytes : ∀ {bs : List Byte}, 4 ≤ bs.length → ∃ d0 d1 d2 d3 tail, bs = d0 :: d1 :: d2 :: d3 :: tail
  | d0 :: d1 :: d2 :: d3 :: tail, _ => ⟨d0, d1, d2, d3, tail, rfl⟩

/-- A full frame that gives a value gives the decode of its data bytes, and has passed the check. -/
theorem rawResult_eq_ok {bs : List Byte} {v : OpValue} (hlen : bs.length = frameBytes cfg.crcEn)
    (h : rawResult cfg bs = .ok v) :
    ∃ d0 d1 d2 d3 tail, bs = d0 :: d1 :: d2 :: d3 :: tail ∧ tail = checkBytes cfg.crcEn [d0, d1, d2, d3] ∧
      v = .reading (decodeReading d0 d1 d2 d3) := by
  obtain ⟨d0, d1, d2, d3, tail, rfl⟩ := exists_dataBytes (hlen ▸ four_le_frameBytes cfg.crcEn)
  rw [rawResult] at h
  split at h
  next hpass =>
    exact ⟨d0, d1, d2, d3, tail, rfl, (checkPasses_iff (data := [d0, d1, d2, d3]) rfl hlen).1 hpass,
      (OpResult.ok.inj h).symm⟩
  next => cases h

end FullFrame

/-- `RP.READ_RAW` on a full frame. -/
theorem exec_rpReadRaw_full {bs : List Byte} {rest : List Answer} (hst : s.st = .idle)
    (ha : s.answers = .ok [] :: .ok bs :: rest) (hlen : bs.length = frameBytes s.cfg.crcEn) :
    exec .rpReadRaw s =
      .next (s.ended (rawResult s.cfg bs) rest
        [s.cfg.selectCall.event (.ok []), s.cfg.readCall.event (.ok bs)]) := by
  rw [exec_rpReadRaw_answered hst ha (readCall_admits_of_le hlen.le), readResult_full _ hlen]

/-- `RP.READ_RAW` on a frame that passes the check, or is not checked. -/
theorem exec_rpReadRaw_reading {d0 d1 d2 d3 : Byte} {tail : List Byte} {rest : List Answer} (hst : s.st = .idle)
    (ha : s.answers = .ok [] :: .ok (d0 :: d1 :: d2 :: d3 :: tail) :: rest)
    (htail : tail = checkBytes s.cfg.crcEn [d0, d1, d2, d3]) :
    exec .rpReadRaw s =
      .next (s.ended (.ok (.reading (decodeReading d0 d1 d2 d3))) rest
        [s.cfg.selectCall.event (.ok []), s.cfg.readCall.event (.ok (d0 :: d1 :: d2 :: d3 :: tail))]) := by
  rw [exec_rpReadRaw_full hst ha (length_of_checkBytes htail), rawResult_of_checkBytes htail]

/-- `RP.READ_RAW` on a frame whose checksum is wrong. -/
theorem exec_rpReadRaw_mismatch {data : List Byte} {k : Byte} {rest : List Answer} (hst : s.st = .idle)
    (hcrc : s.cfg.crcEn = true) (ha : s.answers = .ok [] :: .ok (data ++ [k]) :: rest) (hlen : data.length = 4)
    (hne : crc8 Config.crc data ≠ k) :
    exec .rpReadRaw s =
      .next (s.ended (.err .dataIntegrity) rest
        [s.cfg.selectCall.event (.ok []), s.cfg.readCall.event (.ok (data ++ [k]))]) := by
  rw [exec_rpReadRaw_full hst ha (length_data_check k hcrc hlen), rawResult_of_mismatch hcrc hlen hne]

theorem rawCheck_of_disabled (h : s.cfg.crcEn = false) : rawCheck s = rawDecode (s.setPh .decode) := by
  rw [rawCheck, h]; rfl

/-- Settles O29, answer by answer. -/
theorem readRawCompletesByTheAnswers : Obligations.ReadRawCompletesByTheAnswers := by
  refine fun s rest hst => ⟨exec_rpReadRaw_busError hst, fun ha => exec_rpReadRaw_answered hst ha rfl,
    fun bs ha hlen => ?_, fun d0 d1 d2 d3 hcrc ha => ?_,
    fun d0 d1 d2 d3 k hcrc ha => ⟨fun hk => ?_, fun hk => ?_⟩, fun _ => rawCheck_of_disabled⟩
  · rw [exec_rpReadRaw_answered hst ha (readCall_admits_of_le hlen.le), readResult_short _ hlen]
    rfl
  · exact exec_rpReadRaw_reading hst ha (by rw [hcrc]; rfl)
  · exact exec_rpReadRaw_reading hst ha (by rw [hcrc, ← hk]; rfl)
  · exact exec_rpReadRaw_mismatch (data := [d0, d1, d2, d3]) hst hcrc ha rfl hk

/-! ### What a delivered reading says (R116 to R119) -/

/-- Data bytes with their checksum, changed in one bit, are data bytes with a wrong check byte. -/
theorem set_twoPow_mismatch {p : Config.CrcParams} (hp : StandardParams p) (hpoly : PolyAdmissible p)
    {data : List Byte} {i j : ℕ} {b : Byte} (h : (data ++ [crc8 p data])[i]? = some b) (hj : j < 8) :
    ∃ data' k, (data ++ [crc8 p data]).set i (b ^^^ BitVec.twoPow 8 j) = data' ++ [k] ∧
      data'.length = data.length ∧ crc8 p data' ≠ k := by
  rcases Nat.lt_or_ge i data.length with hi | hi
  · rw [List.getElem?_append_left hi] at h
    exact ⟨_, _, List.set_append_left i _ hi, List.length_set, crc8_set_twoPow_ne hp hpoly h hj⟩
  · rw [List.getElem?_append_right hi, List.getElem?_singleton] at h
    split at h
    next h0 =>
      obtain rfl := Option.some.inj h
      exact ⟨data, _, by rw [List.set_append_right i _ hi, h0]; rfl, rfl, ne_xor_twoPow _ hj⟩
    next => cases h

/-- Settles O30: a changed bit leaves a wrong check byte, whichever byte it is in. -/
theorem frameWithOneBitErrorIsRejected : Obligations.FrameWithOneBitErrorIsRejected := by
  intro s rest d0 d1 d2 d3 b i j hst hcrc hj good hb ha
  obtain ⟨data, k, hset, hlen, hne⟩ :=
    set_twoPow_mismatch (p := Config.crc) (data := [d0, d1, d2, d3]) ⟨rfl, rfl, rfl⟩ crcPoly_ne_zero hb hj
  exact ⟨_, exec_rpReadRaw_mismatch hst hcrc (ha.trans (by rw [← hset]; rfl)) hlen hne, rfl, rfl⟩

/-- Settles O31: a value is never the result of the write, and as the result of the read it tells the frame. -/
theorem deliveredReadingComesFromACheckedFrame : Obligations.DeliveredReadingComesFromACheckedFrame := by
  intro s t v h hv
  cases (exec_next h).2 with
  | readRaw h =>
    cases h with
    | write hno h =>
      obtain ⟨a, rest, ha, hadm, hres, -⟩ := h.ended_of_delivered hv
      cases a with
      | ok bs => exact absurd (selectCall_admits_nil hadm ▸ ha) (hno rest)
      | busError => cases hres
    | read ha h =>
      obtain ⟨a, rest, -, hadm, hres, rfl⟩ := h.ended_of_delivered hv
      obtain ⟨bs, rfl, hlen, hraw⟩ := readResult_eq_ok hadm hres
      obtain ⟨d0, d1, d2, d3, tail, rfl, htail, rfl⟩ := rawResult_eq_ok hlen hraw
      exact ⟨d0, d1, d2, d3, tail, by rw [selected_ended]; rfl, htail, rfl⟩

/-! ### A call without an answer (R122, R161) -/

/-- A step of a block that waits issues the outstanding call once more. -/
theorem step_of_waiting_silent (hst : s.st = .transacting) (hw : s.Waiting) (ha : s.answers = []) :
    step s = .next s := by
  obtain ⟨-, -, -, ⟨hp, -, bytes, hc⟩ | ⟨hp, -, hc⟩ | ⟨hp, hph, hc⟩ | ⟨hp, hph, hc, -⟩⟩ := hw
  · rw [step_transacting hst, resume_writeCommand hp hc]
    exact (writeCommand_access bytes s).eq_self_of_silent ha hc
  · rw [step_transacting hst, resume_readFrame hp]
    exact (readFrame_access s).eq_self_of_silent ha hc
  · rw [step_transacting hst, resume_readRaw hp hph]
    exact ((rawWrite_access s).of_not_selected (by simp [ha])).eq_self_of_silent ha hc
  · rw [step_transacting hst, resume_readRaw hp hph]
    exact (rawRead_access s).eq_self_of_silent ha hc

/-- Settles O32, from the first call without an answer, and by the invariant for a block that waits already. -/
theorem unansweredCallWaitsWithoutBound : Obligations.UnansweredCallWaitsWithoutBound := by
  refine ⟨fun s bytes hst ha => ?_, fun s hst ha => ?_, fun s hst ha => ?_, fun s hst ha => ?_,
    fun s hs hst => step_of_waiting_silent hst (hs.2 hst)⟩
  · rw [exec_rpWriteCommand bytes hst]
    exact (writeCommand_access bytes (s.begin .writeCommand)).eq_of_silent ha
  · rw [exec_rpReadFrame hst]
    exact (readFrame_access (s.begin .readFrame)).eq_of_silent ha
  · exact ((exec_rpReadRaw_access hst).of_not_selected (by simp [ha])).eq_of_silent ha
  · exact ((exec_rpReadRaw_access hst).of_selected ha).eq_of_silent rfl

/-! ### The separate operations one after the other (section 3) -/

/-- Two operations one after the other leave what one leaves that records the events of both, but for their results. -/
theorem State.ended_of_ended (s : State) (r₁ r₂ r : OpResult) (rest₁ rest : List Answer) (evs₁ evs₂ : List BusEvent) :
    s.ended r rest (evs₁ ++ evs₂) =
      { (s.ended r₁ rest₁ evs₁).ended r₂ rest evs₂ with results := s.results ++ [r] } := by
  simp [State.ended]

theorem exec_crcValidate_passes {frame : List Byte} {k : Byte} (hst : s.st = .idle)
    (hk : crc8 Config.crc frame = k) :
    exec (.crcValidate frame k) s = .next { s with crc := none, results := s.results ++ [.ok (.bool true)] } := by
  rw [exec_crcValidate frame k hst, checksumsAgree_iff.2 hk]

/-- Settles O36: the separate operations record the same two events, and with CRC enabled their check passes. -/
theorem readRawAgreesWithSeparateOperations : Obligations.ReadRawAgreesWithSeparateOperations := by
  intro s d0 d1 d2 d3 tail rest hst htail ha
  have hraw := exec_rpReadRaw_reading hst ha htail
  have hwrite := exec_rpWriteCommand_answered Config.cmdSelect hst ha rfl
  have hread := exec_rpReadFrame_full (rest := rest)
    (s := s.ended (.ok .unit) (.ok (d0 :: d1 :: d2 :: d3 :: tail) :: rest) [s.cfg.selectCall.event (.ok [])])
    rfl rfl (length_of_checkBytes (cfg := s.cfg) htail)
  have hsame := s.ended_of_ended (.ok .unit) (.ok (.frame (d0 :: d1 :: d2 :: d3 :: tail)))
    (.ok (.reading (decodeReading d0 d1 d2 d3))) (.ok (d0 :: d1 :: d2 :: d3 :: tail) :: rest) rest
    [s.cfg.selectCall.event (.ok [])] [s.cfg.readCall.event (.ok (d0 :: d1 :: d2 :: d3 :: tail))]
  cases hcrc : s.cfg.crcEn with
  | false =>
    obtain rfl : tail = [] := by rw [htail, hcrc]; rfl
    exact ⟨_, _, _, _, _, hraw, hwrite, rfl, hread, rfl, nofun, fun _ => rfl, exec_asmDecode d0 d1 d2 d3 rfl,
      ⟨_, rfl, rfl⟩, hsame⟩
  | true =>
    obtain rfl : tail = [crc8 Config.crc [d0, d1, d2, d3]] := by rw [htail, hcrc]; rfl
    exact ⟨_, _, _, _, _, hraw, hwrite, rfl, hread, rfl,
      fun k hk => ⟨exec_crcValidate_passes rfl (List.singleton_inj.1 hk), rfl⟩, nofun,
      exec_asmDecode d0 d1 d2 d3 rfl, ⟨_, rfl, rfl⟩, hsame⟩

end Sys2Proof.Machine
end

section
/-! PROOFS of the statement on errors (60_exceptions.md R139, R140): `raise E` ends an operation as an `Ok` does. -/

namespace Sys2Proof.Machine

/-- Settles O37: the block ends with no answer drawn and no event recorded, and takes the next request from Idle (O4). -/
theorem raisingAnErrorReturnsToIdle : Obligations.RaisingAnErrorReturnsToIdle := by
  intro e s
  have hhistory : (s.ended (.err e) s.answers []).history = s.history := List.append_nil s.history
  exact ⟨_, raise_eq e s, rfl, rfl, rfl, rfl, rfl, rfl, rfl, rfl, rfl, hhistory, rfl, rfl,
    fun r rs i hr hd => stepRunsTheDecodedRequest.1 _ r rs i rfl hr hd⟩

end Sys2Proof.Machine
end

section
/-! PROOFS. Construction, re-construction, and answered operations and runs (70_reset_and_hazards.md R150 to R153, R159,
R161, R167): which range strings are recognised, what a construction answers by its range, and that an operation and a
run whose calls are answered end at Idle. -/

namespace Sys2Proof.Machine

variable {s : State}

/-! ### The range strings (R73, R151) -/

theorem ofSpelling_spelling (range : PressureRange) : PressureRange.ofSpelling range.spelling = some range := by
  cases range with
  | r0505 | r0025 | r5050 => rfl

/-- A string is not recognised exactly when it is none of the three. -/
theorem ofSpelling_eq_none {text : String} :
    PressureRange.ofSpelling text = none ↔ text ≠ "0505" ∧ text ≠ "0025" ∧ text ≠ "5050" := by
  rw [PressureRange.ofSpelling]
  split_ifs with h0505 h0025 h5050
  · exact iff_of_false nofun fun h => h.1 h0505
  · exact iff_of_false nofun fun h => h.2.1 h0025
  · exact iff_of_false nofun fun h => h.2.2 h5050
  · exact iff_of_true rfl ⟨h0505, h0025, h5050⟩

/-! ### Construction (R150, R151) -/

/-- The configuration a construction loads with a recognised range (R150). -/
def ConstructionParams.cfg (p : ConstructionParams) (range : PressureRange) : Cfg :=
  { crcEn := p.enCrc.getD Config.enCrcDefault
    i2cAddress := p.i2cAddress.getD Config.i2cAddrDefault
    pressureRange := range
    offset := p.offset.getD 0 }

theorem construct_of_recognised {p : ConstructionParams} {range : PressureRange}
    (h : PressureRange.ofSpelling (p.pressureRange.getD "5050") = some range) :
    construct p = .ok { State.reset with cfg := p.cfg range } := by
  rw [construct, h]; rfl

theorem construct_of_unrecognised {p : ConstructionParams}
    (h : PressureRange.ofSpelling (p.pressureRange.getD "5050") = none) : construct p = .error .configuration := by
  rw [construct, h]

/-- A construction fails exactly when its range string, or the default, is not recognised. -/
theorem construct_eq_error {p : ConstructionParams} {e : OpError} :
    construct p = .error e ↔
      e = .configuration ∧ PressureRange.ofSpelling (p.pressureRange.getD "5050") = none := by
  cases h : PressureRange.ofSpelling (p.pressureRange.getD "5050") with
  | none =>
    rw [construct_of_unrecognised h, Except.error.injEq, eq_comm]
    exact (and_iff_left rfl).symm
  | some range =>
    rw [construct_of_recognised h]
    exact iff_of_false nofun nofun

/-- Settles O9: a range given by its string, and the default string, are recognised. -/
theorem constructionLoadsConfiguration : Obligations.ConstructionLoadsConfiguration := by
  refine ⟨construct_of_recognised (range := .r5050) rfl, fun p range hrange => ?_⟩
  have hrec : PressureRange.ofSpelling (p.pressureRange.getD "5050") = some range := by
    rcases hrange with hgiven | ⟨hnone, rfl⟩
    · rw [hgiven]; exact ofSpelling_spelling range
    · rw [hnone]; rfl
  exact ⟨_, construct_of_recognised hrec, rfl, rfl, rfl, rfl, rfl, rfl, rfl, rfl, rfl, rfl, rfl, rfl⟩

/-- Settles O10: the default string is recognised, so a construction that fails was given a string. -/
theorem constructionFailsExactlyOnUnknownRange : Obligations.ConstructionFailsExactlyOnUnknownRange := by
  intro p e
  rw [construct_eq_error]
  refine and_congr_right fun _ => ?_
  cases p.pressureRange with
  | none => exact iff_of_false nofun nofun
  | some text =>
    constructor
    · intro h
      exact ⟨text, rfl, ofSpelling_eq_none.1 h⟩
    · rintro ⟨_, ⟨⟩, h⟩
      exact ofSpelling_eq_none.2 h

/-! ### Re-construction (R152) -/

theorem reconstruct_transacting (p : ConstructionParams) (hst : s.st = .transacting) : reconstruct p s = none := by
  rw [reconstruct, hst]

/-- Settles O11, from the answer of the construction at Idle. -/
theorem reconstructionReplacesTheState : Obligations.ReconstructionReplacesTheState := by
  refine ⟨fun p s hst => reconstruct_transacting p hst, fun p s t hst hp => ?_, fun p s e hst hp => ?_⟩
  · rw [reconstruct, hst, hp]
  · rw [reconstruct, hst, hp]

/-! ### Moves while Transacting (R152, R159) -/

theorem apply_construct_transacting (p : ConstructionParams) (hst : s.st = .transacting) :
    (Move.construct p).apply s = none := by
  rw [Move.apply, reconstruct_transacting p hst]

/-- A request presented while Transacting is refused (O7), and a refusal is no move. -/
theorem apply_present_transacting (r : Request) (hst : s.st = .transacting) : (Move.present r).apply s = none := by
  obtain ⟨why, hr⟩ := noOperationIsTakenWhileTransacting.2.1 r s hst
  rw [Move.apply, hr, nextState]

/-- A move that cannot be made while Transacting was made at Idle. -/
theorem idle_of_apply {m : Move} {t : State} (hm : s.st = .transacting → m.apply s = none) (h : m.apply s = some t) :
    s.st = .idle :=
  s.idle_or_transacting.resolve_right fun hst => by cases (hm hst).symm.trans h

/-- Settles O54: each construction and each presented request of a run that can be made was made at Idle. -/
theorem noConstructionOrRequestWhileTransacting : Obligations.NoConstructionOrRequestWhileTransacting := by
  refine ⟨fun s p r hst => ⟨apply_construct_transacting p hst, apply_present_transacting r hst⟩,
    fun moves s t h => ⟨Along.of_runMoves ?_ h, Along.of_runMoves ?_ h⟩⟩
  · rintro _ s t happly p rfl
    exact idle_of_apply (apply_construct_transacting p) happly
  · rintro _ s t happly r rfl
    exact idle_of_apply (apply_present_transacting r) happly

/-! ### Answered operations and runs (R161) -/

/-- Settles O35: a pure operation calls nothing, and a bus operation ends by the answer to its last call. -/
theorem answeredOperationEndsInOneStep : Obligations.AnsweredOperationEndsInOneStep := by
  intro i s hwf hst hwrite hframe hraw
  cases i with
  | crcCompute frame => exact ⟨_, _, exec_crcCompute frame hst, hst, rfl⟩
  | crcValidate frame expected => exact ⟨_, _, exec_crcValidate frame expected hst, hst, rfl⟩
  | asmDecode d0 d1 d2 d3 => exact ⟨_, _, exec_asmDecode d0 d1 d2 d3 hst, hst, rfl⟩
  | rpWriteCommand bytes =>
    obtain ⟨a, rest, ha, hadm⟩ := hwrite bytes rfl
    exact ⟨_, _, exec_rpWriteCommand_answered bytes hst ha hadm, rfl, rfl⟩
  | rpReadFrame =>
    obtain ⟨a, rest, ha, hadm⟩ := hframe rfl
    exact ⟨_, _, exec_rpReadFrame_answered hst ha hadm, rfl, rfl⟩
  | rpReadRaw =>
    obtain ⟨a, rest, ha, hadm, hread⟩ := hraw rfl
    cases a with
    | busError => exact ⟨_, _, exec_rpReadRaw_busError hst ha, rfl, rfl⟩
    | ok bs =>
      obtain rfl := selectCall_admits_nil hadm
      obtain ⟨b, rest', rfl, hb⟩ := hread.resolve_left nofun
      exact ⟨_, _, exec_rpReadRaw_answered hst ha hb, rfl, rfl⟩
  | reserved110 | reserved111 => cases hwf

/-- A block that waits has a call outstanding (R122). -/
theorem State.Waiting.call_ne_none (h : s.Waiting) : s.call ≠ none := by
  obtain ⟨-, -, -, ⟨-, -, bytes, hc⟩ | ⟨-, -, hc⟩ | ⟨-, -, hc⟩ | ⟨-, -, hc, -⟩⟩ := h <;> rw [hc] <;> nofun

/-- Settles O53: a run keeps the invariant, by which a block without an outstanding call is not Transacting. -/
theorem answeredRunEndsAtIdle : Obligations.AnsweredRunEndsAtIdle := by
  intro moves s t hfresh hanswers hrun
  obtain ⟨hs, hhistory⟩ := hfresh.inv
  obtain ⟨hinv, -⟩ := runsKeepTheInvariants moves s t hs hhistory hrun
  have hidle : t.st = .idle :=
    t.idle_or_transacting.resolve_right fun hst => (hinv.2 hst).call_ne_none (hanswers.2 t hrun)
  exact ⟨hidle, hinv.1 hidle⟩

end Sys2Proof.Machine
end

section
/-! PROOFS. Error patterns that the checksum does not see (95_test_vectors.md section 2.5) and the codes of the results
(60_exceptions.md R130, D13). -/

namespace Sys2Proof.Machine

/-- By linearity, a pattern whose own checksum is `0x00` can be exclusive-ored into any frame of its length without
changing the frame's checksum. -/
theorem crc8_zipWith_xor_eq_self {p : Config.CrcParams} (hp : StandardParams p) {frame pattern : List Byte}
    (hlen : frame.length = pattern.length) (hzero : crc8 p pattern = 0) :
    crc8 p (List.zipWith (· ^^^ ·) frame pattern) = crc8 p frame := by
  rw [crc8_zipWith_xor hp hlen, hzero]
  exact BitVec.xor_zero

/-- A pattern in the first two bytes of a four-byte frame. -/
theorem crc8_xor_first_two_bytes {p : Config.CrcParams} (hp : StandardParams p) {e0 e1 : Byte}
    (hzero : crc8 p [e0, e1, 0, 0] = 0) (d0 d1 d2 d3 : Byte) :
    crc8 p [d0 ^^^ e0, d1 ^^^ e1, d2, d3] = crc8 p [d0, d1, d2, d3] := by
  have unseen := crc8_zipWith_xor_eq_self hp (frame := [d0, d1, d2, d3]) (pattern := [e0, e1, 0, 0]) rfl hzero
  simpa only [List.zipWith, BitVec.ofNat_eq_ofNat, BitVec.xor_zero] using unseen

/-- The frame `D0 04 00 00` is a multiple of the generator of polynomial `0x31` (95_test_vectors.md section 2.5). -/
theorem crc8_pattern_31 : crc8 ⟨0x31, 0x00, 0x00, true⟩ [0xD0, 0x04, 0, 0] = 0 := by decide +kernel

/-- The frame `C2 40 00 00` is a multiple of the generator of polynomial `0x07` (95_test_vectors.md section 2.5). -/
theorem crc8_pattern_07 : crc8 ⟨0x07, 0x00, 0x00, true⟩ [0xC2, 0x40, 0, 0] = 0 := by decide +kernel

/-- Settles O17: each pattern has checksum `0x00` under its polynomial. -/
theorem someFourBitErrorsPass : Obligations.SomeFourBitErrorsPass := fun d0 d1 d2 d3 =>
  ⟨crc8_xor_first_two_bytes ⟨rfl, rfl, rfl⟩ crc8_pattern_31 d0 d1 d2 d3,
    crc8_xor_first_two_bytes ⟨rfl, rfl, rfl⟩ crc8_pattern_07 d0 d1 d2 d3⟩

/-- Different errors have different codes. -/
theorem OpError.code_injective : Function.Injective OpError.code
  | .busError, .busError, _ => rfl
  | .shortRead, .shortRead, _ => rfl
  | .dataIntegrity, .dataIntegrity, _ => rfl
  | .configuration, .configuration, _ => rfl

/-- Settles O38: the codes are the definition's, and no two errors share one. -/
theorem errorCodesFollowTheTaxonomy : Obligations.ErrorCodesFollowTheTaxonomy :=
  ⟨rfl, rfl, rfl, rfl, fun _ => rfl, fun _ _ h => OpError.code_injective h⟩

end Sys2Proof.Machine
end
